-- ==== Sys2Proof/Word.lean ====
section
/-!
DEFINITION. The machine's one word: the byte (spec/00_scope.md R3, R5).
-/

namespace Sys2Proof

/-- Every cell, register, IP and SP is 8 bits wide (R3 `WORD`), always read as an unsigned number 0 to 255 (R5). -/
abbrev Byte := BitVec 8

end Sys2Proof
end

