-- ==== Sys2Proof/Syntax.lean ====
section
/-!
DEFINITION. The instructions as syntax: register names, operand forms, and one constructor per row of
spec/opcode_table.json (spec/30_encoding.md R61 to R67, R73, R75).
-/

namespace Sys2Proof

/-- The four general registers (10_state R11). -/
inductive Reg where
  | r0 | r1 | r2 | r3
  deriving DecidableEq, Repr, Inhabited

/-- The second operand of an instruction that takes a value, by addressing mode (30_encoding R63). -/
inductive Operand where
  | reg (s : Reg)          -- mode 0, register
  | const (k : Byte)       -- mode 1, constant
  | abs (a : Byte)         -- mode 2, absolute address
  | idx (s : Reg)          -- mode 3, address held in a register
  deriving DecidableEq, Repr

/-- The destination of STORE: the two modes that give an address (40_step_cycle R87). -/
inductive Dest where
  | abs (a : Byte)         -- mode 2
  | idx (s : Reg)          -- mode 3
  deriving DecidableEq, Repr

/-- One constructor per row of the opcode table. The three reserved rows (30_encoding R69, R75) keep the
opcode byte, which their Fault records (60_exceptions R161). -/
inductive Instr where
  | halt
  | int (n : Byte)
  | cmp (p : Reg) (src : Operand)
  | jmp (t : Byte)
  | call (src : Operand)
  | ret
  | jz (t : Byte)
  | jnz (t : Byte)
  | jc (t : Byte)
  | jnc (t : Byte)
  | load (p : Reg) (src : Operand)
  | store (p : Reg) (dst : Dest)
  | storeInvalid (b0 : Byte)
  | add (p : Reg) (src : Operand)
  | sub (p : Reg) (src : Operand)
  | and (p : Reg) (src : Operand)
  | or (p : Reg) (src : Operand)
  | xor (p : Reg) (src : Operand)
  | inc (s : Reg)
  | dec (s : Reg)
  | not (s : Reg)
  | asl (s : Reg)
  | asr (s : Reg)
  | unaryReserved5 (b0 : Byte)
  | unaryReserved67 (b0 : Byte)
  | push (p : Reg)
  | pop (p : Reg)
  deriving DecidableEq, Repr

end Sys2Proof
end

