-- ==== Sys2Proof/WellFormed.lean ====
section
/-!
DEFINITION. Which terms of `Instr` stand for words of the machine. Registers and bytes are in range by
their types; only the three reserved rows carry an opcode byte that can be the wrong one
(spec/30_encoding.md R69; the masks are those of spec/opcode_table.json).
-/

namespace Sys2Proof

/-- STORE with mode 0 or 1: the table's row STORE_INVALID, match 0x80 under mask 0xF2 (R69, R122). -/
def isStoreInvalidByte (b0 : Byte) : Bool := b0 &&& 0xF2#8 == 0x80#8

/-- UNARY with sub-operation 5: the table's row UNARY_RESERVED_5 (R69, R145). -/
def isUnaryReserved5Byte (b0 : Byte) : Bool := b0 &&& 0xF7#8 == 0xE5#8

/-- UNARY with sub-operation 6 or 7: the table's row UNARY_RESERVED_6_7 (R69, R145). -/
def isUnaryReserved67Byte (b0 : Byte) : Bool := b0 &&& 0xF6#8 == 0xE6#8

/-- Well-formedness of an instruction as syntax. -/
def Instr.wellFormed : Instr → Bool
  | .storeInvalid b0 => isStoreInvalidByte b0
  | .unaryReserved5 b0 => isUnaryReserved5Byte b0
  | .unaryReserved67 b0 => isUnaryReserved67Byte b0
  | .halt | .int _ | .cmp _ _ | .jmp _ | .call _ | .ret | .jz _ | .jnz _ | .jc _ | .jnc _ => true
  | .load _ _ | .store _ _ | .add _ _ | .sub _ _ | .and _ _ | .or _ _ | .xor _ _ => true
  | .inc _ | .dec _ | .not _ | .asl _ | .asr _ | .push _ | .pop _ => true

/-- The three rows that are not instructions (30_encoding R69, R75): their step is a Fault. -/
def Instr.isReserved : Instr → Bool
  | .storeInvalid _ | .unaryReserved5 _ | .unaryReserved67 _ => true
  | .halt | .int _ | .cmp _ _ | .jmp _ | .call _ | .ret | .jz _ | .jnz _ | .jc _ | .jnc _ => false
  | .load _ _ | .store _ _ | .add _ _ | .sub _ _ | .and _ _ | .or _ _ | .xor _ _ => false
  | .inc _ | .dec _ | .not _ | .asl _ | .asr _ | .push _ | .pop _ => false

end Sys2Proof
end

