-- ==== Sys2Proof/Decode.lean ====
section
/-!
DEFINITION. The decoder of spec/30_encoding.md R71 (R84 of spec/40_step_cycle.md), total on any bytes, and
after it the encoder, written from the canonical encodings of R74.
-/

namespace Sys2Proof

/-- A two-bit register field (30_encoding R61, R62): all four values name a register. -/
def regOfBits (b : BitVec 2) : Reg :=
  match b.toNat with
  | 0 => .r0
  | 1 => .r1
  | 2 => .r2
  | _ => .r3

/-- The operation code `op = b0[7:4]` (R61). -/
def opField (b0 : Byte) : Nat := (b0.extractLsb' 4 4).toNat

/-- The primary register `p = b0[3:2]` (R61). -/
def primaryField (b0 : Byte) : Reg := regOfBits (b0.extractLsb' 2 2)

/-- The addressing mode `m = b0[1:0]`, which CONDJUMP reads as its condition code (R61). -/
def modeField (b0 : Byte) : Nat := (b0.extractLsb' 0 2).toNat

/-- The sub-operation of UNARY, `sub = b0[2:0]` (R61, R66). -/
def subField (b0 : Byte) : Nat := (b0.extractLsb' 0 3).toNat

/-- The direction bit of STACK, `dir = b0[0]` (R61, R67). -/
def dirField (b0 : Byte) : Nat := (b0.extractLsb' 0 1).toNat

/-- The secondary register `s = b1[1:0]` (R62); the other bits of b1 are then not read. -/
def secondaryField (b1 : Byte) : Reg := regOfBits (b1.extractLsb' 0 2)

/-- The operand form of an instruction that takes a value (R63). -/
def operandOf (m : Nat) (b1 : Byte) : Operand :=
  match m with
  | 0 => .reg (secondaryField b1)
  | 1 => .const b1
  | 2 => .abs b1
  | _ => .idx (secondaryField b1)

/-- STORE by its mode: modes 2 and 3 give an address, modes 0 and 1 are not valid (R69, R71). -/
def decodeStore (b0 b1 : Byte) : Instr :=
  match modeField b0 with
  | 0 => .storeInvalid b0
  | 1 => .storeInvalid b0
  | 2 => .store (primaryField b0) (.abs b1)
  | _ => .store (primaryField b0) (.idx (secondaryField b1))

/-- CONDJUMP by its condition code (R65); the target is the raw operand byte. -/
def decodeCondJump (b0 b1 : Byte) : Instr :=
  match modeField b0 with
  | 0 => .jz b1
  | 1 => .jnz b1
  | 2 => .jc b1
  | _ => .jnc b1

/-- UNARY by its sub-operation (R66); 5, 6 and 7 are reserved (R69). -/
def decodeUnary (b0 b1 : Byte) : Instr :=
  match subField b0 with
  | 0 => .inc (secondaryField b1)
  | 1 => .dec (secondaryField b1)
  | 2 => .not (secondaryField b1)
  | 3 => .asl (secondaryField b1)
  | 4 => .asr (secondaryField b1)
  | 5 => .unaryReserved5 b0
  | _ => .unaryReserved67 b0

/-- STACK by its direction (R67); the register is the PRIMARY field (90_conflicts C1; log 14). -/
def decodeStack (b0 : Byte) : Instr :=
  match dirField b0 with
  | 0 => .push (primaryField b0)
  | _ => .pop (primaryField b0)

/-- The decoding procedure of R71: every pair of bytes is exactly one row of the table (R70, R75). Bits a row
does not name are not read (R68; log 14). -/
def decode (b0 b1 : Byte) : Instr :=
  match opField b0 with
  | 0 => .halt
  | 1 => .int b1
  | 2 => .cmp (primaryField b0) (operandOf (modeField b0) b1)
  | 3 => .jmp b1
  | 4 => .call (operandOf (modeField b0) b1)
  | 5 => .ret
  | 6 => decodeCondJump b0 b1
  | 7 => .load (primaryField b0) (operandOf (modeField b0) b1)
  | 8 => decodeStore b0 b1
  | 9 => .add (primaryField b0) (operandOf (modeField b0) b1)
  | 10 => .sub (primaryField b0) (operandOf (modeField b0) b1)
  | 11 => .and (primaryField b0) (operandOf (modeField b0) b1)
  | 12 => .or (primaryField b0) (operandOf (modeField b0) b1)
  | 13 => .xor (primaryField b0) (operandOf (modeField b0) b1)
  | 14 => decodeUnary b0 b1
  | _ => decodeStack b0

/-- Why a list of bytes is no instruction: an instruction is always two bytes (R60). -/
inductive DecodeError where
  /-- fewer than two bytes were given -/
  | truncated
  deriving DecidableEq, Repr

/-- The instruction at the head of a byte list, with the bytes after it (R60, R71). -/
def decodeBytes : List Byte → Except DecodeError (Instr × List Byte)
  | b0 :: b1 :: rest => .ok (decode b0 b1, rest)
  | [_] => .error .truncated
  | [] => .error .truncated

/-- The two bytes of a 16-bit pattern of spec/opcode_table.json: bits 15 to 8 are b0, which lies at the lower
address, bits 7 to 0 are b1 (R75; log 13). -/
def bytesOfTableWord (nbits w : Nat) : List Byte :=
  [BitVec.ofNat 8 (w % 2 ^ nbits / 256), BitVec.ofNat 8 (w % 2 ^ nbits)]

/-- The instruction the decoder reads from a pattern numbered as the opcode table numbers it. -/
def decodeTableWord (nbits w : Nat) : Option Instr :=
  match decodeBytes (bytesOfTableWord nbits w) with
  | .ok (i, _) => some i
  | .error _ => none

/-! The encoder. -/

/-- The index of a register, 0 to 3 (R61). -/
def regIndex : Reg → Nat
  | .r0 => 0
  | .r1 => 1
  | .r2 => 2
  | .r3 => 3

/-- A register index as an operand byte, its unread bits 0 (R62, R74). -/
def regByte (s : Reg) : Byte := BitVec.ofNat 8 (regIndex s)

/-- An opcode byte from operation code, primary register and low two bits (R61). -/
def opcodeByte (op p m : Nat) : Byte := BitVec.ofNat 8 (16 * op + 4 * p + m)

/-- The mode number of an operand form (R63). -/
def operandMode : Operand → Nat
  | .reg _ => 0
  | .const _ => 1
  | .abs _ => 2
  | .idx _ => 3

/-- The operand byte of an operand form (R62, R74). -/
def operandByte : Operand → Byte
  | .reg s => regByte s
  | .const k => k
  | .abs a => a
  | .idx s => regByte s

/-- The mode number of a STORE destination (R63, R74). -/
def destMode : Dest → Nat
  | .abs _ => 2
  | .idx _ => 3

/-- The operand byte of a STORE destination (R74). -/
def destByte : Dest → Byte
  | .abs a => a
  | .idx s => regByte s

/-- An instruction with a primary register and a mode (table format REG_MODE). -/
def encodeRegMode (op : Nat) (p : Reg) (src : Operand) : List Byte :=
  [opcodeByte op (regIndex p) (operandMode src), operandByte src]

/-- The canonical bytes of an instruction (R74). A reserved row is encoded by the opcode byte it keeps. -/
def encode : Instr → List Byte
  | .halt => [0x00#8, 0x00#8]
  | .int n => [0x10#8, n]
  | .cmp p src => encodeRegMode 0x2 p src
  | .jmp t => [0x31#8, t]
  | .call src => [opcodeByte 0x4 0 (operandMode src), operandByte src]
  | .ret => [0x50#8, 0x00#8]
  | .jz t => [0x60#8, t]
  | .jnz t => [0x61#8, t]
  | .jc t => [0x62#8, t]
  | .jnc t => [0x63#8, t]
  | .load p src => encodeRegMode 0x7 p src
  | .store p dst => [opcodeByte 0x8 (regIndex p) (destMode dst), destByte dst]
  | .storeInvalid b0 => [b0, 0x00#8]
  | .add p src => encodeRegMode 0x9 p src
  | .sub p src => encodeRegMode 0xA p src
  | .and p src => encodeRegMode 0xB p src
  | .or p src => encodeRegMode 0xC p src
  | .xor p src => encodeRegMode 0xD p src
  | .inc s => [0xE0#8, regByte s]
  | .dec s => [0xE1#8, regByte s]
  | .not s => [0xE2#8, regByte s]
  | .asl s => [0xE3#8, regByte s]
  | .asr s => [0xE4#8, regByte s]
  | .unaryReserved5 b0 => [b0, 0x00#8]
  | .unaryReserved67 b0 => [b0, 0x00#8]
  | .push p => [opcodeByte 0xF (regIndex p) 0, regByte p]
  | .pop p => [opcodeByte 0xF (regIndex p) 1, regByte p]

end Sys2Proof
end

