-- ==== Sys2Proof/Config.lean ====
section
/-!
DEFINITION. What is fixed for a machine (spec/00_scope.md R3) and what the spec leaves open (R4): constants
with no body, of which no value can be proved.
-/

namespace Sys2Proof

/-- `IP_RESET` (R3). -/
def Config.ipReset : Byte := 0x00#8

/-- `SP_RESET` (R3). -/
def Config.spReset : Byte := 0xBF#8

/-- `MEMSIZE` (R3): addresses are 0 to 255. -/
def Config.memSize : Nat := 256

/-- `NINT` (R3): interrupt identifiers are 0 to 255. -/
def Config.numInterrupts : Nat := 256

/-- A handler bound in the Interrupt Table, by name: the random handler, whose contract the spec gives
(60_exceptions R174), or an external one, told apart by a number, of which only R167 and R168 are known. -/
inductive Handler where
  | random
  | external (k : Nat)
  deriving DecidableEq, Repr

/-- The six guarded writes of 00_scope R9 as a handler or the host calls them, with their arguments as given:
unbounded integers, which the operation clamps or refuses (10_state R27). -/
inductive GuardedWrite where
  | memory (address value : Int)
  | register (index value : Int)
  | ip (value : Int)
  | sp (value : Int)
  | zero (bit : Int)
  | carry (bit : Int)
  deriving DecidableEq, Repr

/-- What a handler can read (60_exceptions R167): memory as the list of its cells that are not 0, registers,
IP, SP, flags and the two status booleans. -/
structure Snapshot where
  mem : List (Nat × Byte)
  r0 : Byte
  r1 : Byte
  r2 : Byte
  r3 : Byte
  ip : Byte
  sp : Byte
  zero : Bool
  carry : Bool
  halted : Bool
  interrupted : Bool
  deriving DecidableEq, Repr

/-- When a handler signals completion (60_exceptions R166, R168, R169): within the dispatch call, later after
some more writes, or never. -/
inductive Completion where
  | withinCall
  | later (writes : List GuardedWrite)
  | never (writes : List GuardedWrite)
  deriving DecidableEq, Repr, Inhabited

/-- All a handler does for one invocation (60_exceptions R167): the guarded writes it makes before the dispatch
call returns, and how it completes. It has no move that resets, steps, registers, dispatches or sets `halted`
(D17; log 2). -/
structure HandlerResponse where
  inCall : List GuardedWrite
  completion : Completion
  deriving DecidableEq, Repr, Inhabited

/-- `NOT_CARRY` (R4, 45_unary R142): the Carry flag after NOT, which the spec leaves open (log 5). -/
opaque Config.notCarry : Bool

/-- The byte the random handler draws (60_exceptions R174), for the dispatch with this ticket (log 4). -/
opaque Config.randomDraw : Nat → Byte

/-- What external handler `k` does when invoked in the state it reads, at the dispatch with this ticket
(60_exceptions R167: a parameter; log 2). -/
opaque Config.handlerResponse : Nat → Snapshot → Nat → HandlerResponse

end Sys2Proof
end

