-- ==== Sys2Proof/Machine/State.lean ====
section
/-!
DEFINITION. The machine's whole state as plain data, the reasons a step can stop, and the state at
construction (spec/10_state.md, R29).
-/

namespace Sys2Proof.Machine

/-- The register file: four bytes (10_state R11). -/
structure RegFile where
  r0 : Byte
  r1 : Byte
  r2 : Byte
  r3 : Byte
  deriving DecidableEq, Repr

/-- Memory: the cells that are not 0x00, by rising address; a cell not listed reads 0x00, its reset contents
(20_memory R40, R41; 10_state R29). -/
abbrev Memory := List Host.Cell

/-- The notification events with their payloads (10_state R28, D13). The constructors ending in `At` are the
per-address and per-index events, whose address or index is part of the event's name (log 9). -/
inductive Event where
  | memoryChanged (a v : Byte)
  | memoryChangedAt (a v : Byte)
  | carryFlagChanged (b : Bool)
  | registerChanged (i : Reg) (v : Byte)
  | registerChangedAt (i : Reg) (v : Byte)
  | ipChanged (v : Byte)
  | spChanged (v : Byte)
  | zeroFlagChanged (b : Bool)
  | stepCompleted
  deriving DecidableEq, Repr

/-- What the handler in flight has still to do after its dispatch call has returned: its remaining guarded
writes, and whether it then signals completion (60_exceptions R166 to R169; log 6). -/
structure Pending where
  writes : List GuardedWrite
  completes : Bool
  deriving DecidableEq, Repr

/-- The complete state of the block (10_state, opening sentence and R26, R28), and the ticket counter of the
model's own (log 3). -/
structure State where
  /-- memory (20_memory R40) -/
  mem : Memory
  /-- r0 to r3 (10_state R11) -/
  regs : RegFile
  /-- instruction pointer (R14) -/
  ip : Byte
  /-- stack pointer (R16) -/
  sp : Byte
  /-- Zero flag (R19, R21) -/
  zero : Bool
  /-- Carry flag (R19, R22) -/
  carry : Bool
  /-- Halted (R23, 40_step_cycle R80) -/
  halted : Bool
  /-- a handler is in flight (R24) -/
  interrupted : Bool
  /-- the filled entries of the Interrupt Table by rising id (R25; log 1) -/
  intTable : List (Nat × Handler)
  /-- the handler in flight (60_exceptions R166 to R169; log 6) -/
  pending : Option Pending
  /-- the ticket of the next dispatch to a handler: the MODEL'S own field (log 3) -/
  draws : Nat
  /-- the notification stream, oldest first (R28; log 9) -/
  events : List Event
  deriving DecidableEq, Repr

/-- The spec's own Fault outcomes, with the information they record (60_exceptions R161): no successor state.
Each is SAFE: the model stops where the source machine's behaviour is undefined (log 8). -/
inductive Fault where
  /-- raised by any step that starts with IP = 0xFF (40_step_cycle R91); safe -/
  | fetchOutOfRange (ip : Byte)
  /-- raised by STORE with mode 0 or 1 (43_load_store R122); safe -/
  | invalidStoreMode (ip b0 : Byte)
  /-- raised by UNARY with sub-operation 5, 6 or 7 (45_unary R145); safe -/
  | reservedUnarySubop (ip b0 : Byte)
  deriving DecidableEq, Repr

/-- What the model gives no meaning to. -/
inductive Refusal where
  /-- raised by an arm of `exec` whose instruction has no meaning yet; no arm does; safe -/
  | notModelled (mnemonic : String)
  /-- raised by `hostReset` while a handler is in flight (70_reset R194); safe -/
  | resetWhileInterrupted
  /-- raised by `hostWrite` and `hostLoad` while a handler is in flight (70_reset R200); safe -/
  | writeWhileInterrupted
  /-- raised by `hostRegister` after the first step of a run (60_exceptions R164); safe -/
  | registerDuringRun
  /-- raised by a host operation whose argument is outside its input range (10_state R27); safe -/
  | argumentOutOfRange
  deriving DecidableEq, Repr

/-- The machine right after construction (10_state R29; 70_reset R190): memory and registers 0, IP 0x00,
SP 0xBF, flags 0, not halted, no handler in flight, an empty Interrupt Table, nothing emitted. The ticket
counter's 0 is the model's choice (log 3). -/
def State.reset : State where
  mem := []
  regs := { r0 := 0#8, r1 := 0#8, r2 := 0#8, r3 := 0#8 }
  ip := Config.ipReset
  sp := Config.spReset
  zero := false
  carry := false
  halted := false
  interrupted := false
  intTable := []
  pending := none
  draws := 0
  events := []

end Sys2Proof.Machine
end

