-- ==== Sys2Proof/Machine/Flags.lean ====
section
/-!
DEFINITION. Every flag computation of the spec: the 8-bit clamp, whose carry is the whole carry logic of the
machine (spec/10_state.md R10), the comparison that gives Z (R21), and the four conditions (30_encoding R65).
-/

namespace Sys2Proof.Machine

/-- The value part of `clamp8` (R10): the raw result modulo 256. -/
def clampValue (r : Int) : Byte := BitVec.ofInt 8 r

/-- The carry part of `clamp8` (R10): the raw result is not the clamped value. -/
def clampCarry (r : Int) : Bool := r != ((clampValue r).toNat : Int)

/-- A byte as a raw integer (00_scope R5: unsigned). -/
def raw (b : Byte) : Int := (b.toNat : Int)

/-- The Zero flag COMPARE writes (10_state R21, 42_compare_control R110). -/
def compareZero (x value : Byte) : Bool := x == value

/-- Condition code 0: Z is 1 (30_encoding R65). -/
def condZ (s : State) : Bool := s.zero

/-- Condition code 1: Z is 0. -/
def condNZ (s : State) : Bool := !s.zero

/-- Condition code 2: C is 1. -/
def condC (s : State) : Bool := s.carry

/-- Condition code 3: C is 0. -/
def condNC (s : State) : Bool := !s.carry

end Sys2Proof.Machine
end

