-- ==== Sys2Proof/Machine/Ops.lean ====
section
/-!
DEFINITION. The named operations over memory, registers and the notification stream (the guarded writes of
spec/10_state.md and spec/20_memory.md R42), fetching, the frame of a step (spec/40_step_cycle.md R85, R89),
and the interrupt dispatcher with the handler's moves (spec/60_exceptions.md R165 to R169). This machine has
no exception entry (R160): the dispatcher stands in its place, and the handler's completion is its return.
-/

namespace Sys2Proof.Machine

/-! Sorted lists of keys and values, used for memory and for the Interrupt Table. -/

/-- The value a key has, if it is listed. -/
def lookupKey {α : Type} (k : Nat) : List (Nat × α) → Option α
  | [] => none
  | (j, w) :: t => if j = k then some w else lookupKey k t

/-- Give a key a value, keeping rising order. -/
def insertKey {α : Type} (k : Nat) (v : α) : List (Nat × α) → List (Nat × α)
  | [] => [(k, v)]
  | (j, w) :: t =>
    if k < j then (k, v) :: (j, w) :: t
    else if k = j then (k, v) :: t
    else (j, w) :: insertKey k v t

/-- Remove a key. -/
def eraseKey {α : Type} (k : Nat) : List (Nat × α) → List (Nat × α)
  | [] => []
  | (j, w) :: t => if j = k then eraseKey k t else (j, w) :: eraseKey k t

/-- Keys strictly rise, from `lo` on. -/
def risingFrom {α : Type} (lo : Nat) : List (Nat × α) → Bool
  | [] => true
  | (j, _) :: t => decide (lo ≤ j) && risingFrom (j + 1) t

/-! Memory (20_memory R40, R41, R42). -/

/-- The canonical form: rising addresses, all below 256, no listed cell holding 0x00. -/
def Memory.wf (m : Memory) : Bool :=
  risingFrom 0 m && m.all fun c => decide (c.1 < Config.memSize) && c.2 != 0#8

/-- The byte in a cell; an unlisted cell holds its reset contents 0x00 (R41, 10_state R29). -/
def readCell (m : Memory) (a : Nat) : Byte := (lookupKey a m).getD 0#8

/-- Store a byte, keeping the canonical form. -/
def writeCell (m : Memory) (a : Nat) (v : Byte) : Memory :=
  if v = 0#8 then eraseKey a m else insertKey a v m

/-- `MemRead(addr, 1)` (R41): no side effect. -/
def readMemory (a : Byte) (s : State) : Byte := readCell s.mem a.toNat

/-! Registers (10_state R11). -/

/-- Read a register of the file. -/
def RegFile.get (f : RegFile) : Reg → Byte
  | .r0 => f.r0
  | .r1 => f.r1
  | .r2 => f.r2
  | .r3 => f.r3

/-- Write a register of the file. -/
def RegFile.set (f : RegFile) (i : Reg) (v : Byte) : RegFile :=
  match i with
  | .r0 => { f with r0 := v }
  | .r1 => { f with r1 := v }
  | .r2 => { f with r2 := v }
  | .r3 => { f with r3 := v }

/-- `x[i]` (00_scope R6). -/
def readRegister (i : Reg) (s : State) : Byte := s.regs.get i

/-! The notification stream and the six guarded writes. -/

/-- Append an event to the stream (10_state R28). -/
def emit (e : Event) (s : State) : State := { s with events := s.events ++ [e] }

/-- Guarded memory write (20_memory R42): clamp, discard the carry, store, notify twice. -/
def writeMemory (a : Byte) (v : Int) (s : State) : State :=
  emit (.memoryChangedAt a (clampValue v))
    (emit (.memoryChanged a (clampValue v)) { s with mem := writeCell s.mem a.toNat (clampValue v) })

/-- Guarded Carry write (10_state R20). -/
def writeCarryFlag (b : Bool) (s : State) : State := emit (.carryFlagChanged b) { s with carry := b }

/-- Guarded Zero write (R20). -/
def writeZeroFlag (b : Bool) (s : State) : State := emit (.zeroFlagChanged b) { s with zero := b }

/-- The body of the guarded register write (R13) for a value and a carry already found: store, write C, notify
twice; NOT uses it with the open carry (45_unary R142). -/
def storeRegister (i : Reg) (v : Byte) (c : Bool) (s : State) : State :=
  emit (.registerChangedAt i v)
    (emit (.registerChanged i v) (writeCarryFlag c { s with regs := s.regs.set i v }))

/-- Guarded register write `x[i] <- v` (R13). -/
def writeRegister (i : Reg) (v : Int) (s : State) : State := storeRegister i (clampValue v) (clampCarry v) s

/-- Guarded IP write `pc <- v` (R15); the Carry flag is not touched. -/
def writeIp (v : Int) (s : State) : State := emit (.ipChanged (clampValue v)) { s with ip := clampValue v }

/-- Guarded SP write `sp <- v` (R18). -/
def writeSp (v : Int) (s : State) : State := emit (.spChanged (clampValue v)) { s with sp := clampValue v }

/-! The stack discipline (46_stack R152): SP names the next free cell. -/

/-- Push one byte: write at SP, then subtract 1. -/
def pushByte (v : Byte) (s : State) : State := writeSp (raw s.sp - 1) (writeMemory s.sp (raw v) s)

/-- The first half of a pop: SP + 1, so that SP names the cell to read. -/
def raiseSp (s : State) : State := writeSp (raw s.sp + 1) s

/-- The second half of a pop: the byte at SP. -/
def stackByte (s : State) : Byte := readMemory s.sp s

/-! Guarded writes called from outside, with their arguments as given (10_state R27, D23). -/

/-- An integer as a byte, if it is one: the input range of an address or an id. -/
def byteOfInt (n : Int) : Option Byte := if 0 ≤ n ∧ n < 256 then some (BitVec.ofInt 8 n) else none

/-- An integer as a register index, if it is one. -/
def regOfInt (n : Int) : Option Reg :=
  if n = 0 then some .r0
  else if n = 1 then some .r1
  else if n = 2 then some .r2
  else if n = 3 then some .r3
  else none

/-- An integer as a flag value, if it is one. -/
def bitOfInt (n : Int) : Option Bool :=
  if n = 0 then some false else if n = 1 then some true else none

/-- One of the six guarded writes as a handler or the host calls it; none where an argument is outside its
input range, which is refused (R27). -/
def guardedWrite (w : GuardedWrite) (s : State) : Option State :=
  match w with
  | .memory a v => (byteOfInt a).map fun a => writeMemory a v s
  | .register i v => (regOfInt i).map fun i => writeRegister i v s
  | .ip v => some (writeIp v s)
  | .sp v => some (writeSp v s)
  | .zero b => (bitOfInt b).map fun b => writeZeroFlag b s
  | .carry b => (bitOfInt b).map fun b => writeCarryFlag b s

/-- A handler's access (60_exceptions R167): a refused write changes nothing and emits nothing (R27; log 10). -/
def handlerWrite (s : State) (w : GuardedWrite) : State := (guardedWrite w s).getD s

/-! The frame of a step (40_step_cycle R83, R85, R89). -/

/-- The two bytes a step fetches: the opcode byte at IP and the operand byte at IP + 1 (R83). Used only where
IP is not 0xFF, so that IP + 1 is an address. -/
def fetchBytes (s : State) : Byte × Byte := (readMemory s.ip s, readMemory (s.ip + 1#8) s)

/-- Part 3 of a step: IP advances by 2 through the guarded write (R85). -/
def advanceIp (s : State) : State := writeIp (raw s.ip + 2) s

/-- Parts 3 to 6 of a step around an instruction's body: advance, body, `step-completed` (R85, R88, R89). -/
def inFrame (body : State → State) (s : State) : Host.Outcome State Fault Refusal :=
  .next (emit .stepCompleted (body (advanceIp s)))

/-! The interrupt dispatcher (60_exceptions R165, R166) and the handler's moves (R167, R168). -/

/-- What a handler reads (R167). -/
def snapshotOf (s : State) : Snapshot where
  mem := s.mem
  r0 := s.regs.r0
  r1 := s.regs.r1
  r2 := s.regs.r2
  r3 := s.regs.r3
  ip := s.ip
  sp := s.sp
  zero := s.zero
  carry := s.carry
  halted := s.halted
  interrupted := s.interrupted

/-- What a handler does when it is invoked: the random handler writes a drawn byte to register 0 and completes
at once (R174; log 4), any other does what the open parameter says (R167; log 2). -/
def responseOf (h : Handler) (s : State) : HandlerResponse :=
  match h with
  | .random => { inCall := [.register 0 (raw (Config.randomDraw s.draws))], completion := .withinCall }
  | .external k => Config.handlerResponse k (snapshotOf s) s.draws

/-- The handler's completion, the machine's whole return from interrupt (R168): `interrupted` is cleared
silently, nothing is restored. -/
def completeHandler (s : State) : State := { s with interrupted := false, pending := none }

/-- The dispatch call as the handler lives it (R166): its writes within the call, then its completion, or the
work it leaves for later. -/
def performResponse (r : HandlerResponse) (s : State) : State :=
  match r.completion with
  | .withinCall => completeHandler (r.inCall.foldl handlerWrite s)
  | .later ws => { r.inCall.foldl handlerWrite s with pending := some { writes := ws, completes := true } }
  | .never ws => { r.inCall.foldl handlerWrite s with pending := some { writes := ws, completes := false } }

/-- The state in which a handler is invoked: `interrupted` is set first, and nothing is saved (R166). -/
def enterHandler (s : State) : State := { s with interrupted := true }

/-- The next dispatch draws afresh (log 3). -/
def nextTicket (s : State) : State := { s with draws := s.draws + 1 }

/-- `dispatch(id)` (R165, R166): nothing for an empty entry, else the handler is invoked. -/
def dispatch (id : Byte) (s : State) : State :=
  match lookupKey id.toNat s.intTable with
  | none => s
  | some h => performResponse (responseOf h (enterHandler s)) (nextTicket (enterHandler s))

/-- The next move of the handler in flight: its next guarded write, or its completion when none is left, or
nothing for a handler that never completes (R167 to R169). Where no handler's work is recorded, which no run
reaches, nothing moves (log 6). -/
def handlerMove (s : State) : State :=
  match s.pending with
  | none => s
  | some { writes := w :: ws, completes := c } =>
    { handlerWrite s w with pending := some { writes := ws, completes := c } }
  | some { writes := [], completes := true } => completeHandler s
  | some { writes := [], completes := false } => s

end Sys2Proof.Machine
end

