-- ==== Sys2Proof/Machine/Operands.lean ====
section
/-!
DEFINITION. The operand forms: the value of spec/40_step_cycle.md R86 and the address of R87.
-/

namespace Sys2Proof.Machine

/-- The operand value by mode (R86). -/
def operandValue (src : Operand) (s : State) : Byte :=
  match src with
  | .reg r => readRegister r s
  | .const k => k
  | .abs a => readMemory a s
  | .idx r => readMemory (readRegister r s) s

/-- The operand address of STORE by mode (R87). -/
def operandAddress (dst : Dest) (s : State) : Byte :=
  match dst with
  | .abs a => a
  | .idx r => readRegister r s

end Sys2Proof.Machine
end

