-- ==== Sys2Proof/Machine/Alu.lean ====
section
/-!
DEFINITION. Two-operand arithmetic and logic (spec/44_alu.md).
-/

namespace Sys2Proof.Machine

/-- The shape of all five: the raw result of register and value into the primary register, through the guarded
write, which sets C from the clamp. -/
def aluBody (op : Byte → Byte → Int) (p : Reg) (src : Operand) (u : State) : State :=
  writeRegister p (op (readRegister p u) (operandValue src u)) u

/-- ADD (R130). -/
def execAdd (p : Reg) (src : Operand) (s : State) : Host.Outcome State Fault Refusal :=
  inFrame (aluBody (fun x v => raw x + raw v) p src) s

/-- SUB (R131): C reports a borrow. -/
def execSub (p : Reg) (src : Operand) (s : State) : Host.Outcome State Fault Refusal :=
  inFrame (aluBody (fun x v => raw x - raw v) p src) s

/-- AND (R132). -/
def execAnd (p : Reg) (src : Operand) (s : State) : Host.Outcome State Fault Refusal :=
  inFrame (aluBody (fun x v => raw (x &&& v)) p src) s

/-- OR (R133). -/
def execOr (p : Reg) (src : Operand) (s : State) : Host.Outcome State Fault Refusal :=
  inFrame (aluBody (fun x v => raw (x ||| v)) p src) s

/-- XOR (R134). -/
def execXor (p : Reg) (src : Operand) (s : State) : Host.Outcome State Fault Refusal :=
  inFrame (aluBody (fun x v => raw (x ^^^ v)) p src) s

end Sys2Proof.Machine
end

