-- ==== Sys2Proof/Machine/Control.lean ====
section
/-!
DEFINITION. Compare and control transfer (spec/42_compare_control.md).
-/

namespace Sys2Proof.Machine

/-- Z says whether the register equals the value. -/
def compareBody (p : Reg) (src : Operand) (u : State) : State :=
  writeZeroFlag (compareZero (readRegister p u) (operandValue src u)) u

/-- CMP (R110): C is not written. -/
def execCmp (p : Reg) (src : Operand) (s : State) : Host.Outcome State Fault Refusal :=
  inFrame (compareBody p src) s

/-- JMP (R111): IP becomes the raw operand byte. -/
def execJmp (t : Byte) (s : State) : Host.Outcome State Fault Refusal := inFrame (writeIp (raw t)) s

/-- Push IP and jump to the value, which is read in the state before the push. -/
def callBody (src : Operand) (u : State) : State := writeIp (raw (operandValue src u)) (pushByte u.ip u)

/-- CALL (R112): the return address is the advanced IP. -/
def execCall (src : Operand) (s : State) : Host.Outcome State Fault Refusal := inFrame (callBody src) s

/-- SP + 1, then IP from the cell at the new SP. -/
def returnBody (u : State) : State := writeIp (raw (stackByte (raiseSp u))) (raiseSp u)

/-- RET (R113). -/
def execRet (s : State) : Host.Outcome State Fault Refusal := inFrame returnBody s

/-- A conditional jump: the raw operand byte if the condition holds, else the advanced IP stands (R114). -/
def jumpIf (cond : State → Bool) (t : Byte) (u : State) : State :=
  if cond u then writeIp (raw t) u else u

/-- JZ (R114). -/
def execJz (t : Byte) (s : State) : Host.Outcome State Fault Refusal := inFrame (jumpIf condZ t) s

/-- JNZ (R115). -/
def execJnz (t : Byte) (s : State) : Host.Outcome State Fault Refusal := inFrame (jumpIf condNZ t) s

/-- JC (R116). -/
def execJc (t : Byte) (s : State) : Host.Outcome State Fault Refusal := inFrame (jumpIf condC t) s

/-- JNC (R117). -/
def execJnc (t : Byte) (s : State) : Host.Outcome State Fault Refusal := inFrame (jumpIf condNC t) s

end Sys2Proof.Machine
end

