-- ==== Sys2Proof/Machine/LoadStore.lean ====
section
/-!
DEFINITION. LOAD, STORE and the STORE modes that are not valid (spec/43_load_store.md).
-/

namespace Sys2Proof.Machine

/-- The value into the primary register, through the guarded write. -/
def loadBody (p : Reg) (src : Operand) (u : State) : State := writeRegister p (raw (operandValue src u)) u

/-- LOAD (R120): the guarded write of a byte clears C. -/
def execLoad (p : Reg) (src : Operand) (s : State) : Host.Outcome State Fault Refusal :=
  inFrame (loadBody p src) s

/-- The primary register into the cell at the address. -/
def storeBody (p : Reg) (dst : Dest) (u : State) : State :=
  writeMemory (operandAddress dst u) (raw (readRegister p u)) u

/-- STORE (R121): no flag. -/
def execStore (p : Reg) (dst : Dest) (s : State) : Host.Outcome State Fault Refusal :=
  inFrame (storeBody p dst) s

/-- STORE with mode 0 or 1 (R122): a Fault before the IP advance, recording IP and b0 (60_exceptions R161). -/
def execStoreInvalid (b0 : Byte) (s : State) : Host.Outcome State Fault Refusal :=
  .fault (.invalidStoreMode s.ip b0)

end Sys2Proof.Machine
end

