-- ==== Sys2Proof/Machine/Stack.lean ====
section
/-!
DEFINITION. PUSH and POP (spec/46_stack.md).
-/

namespace Sys2Proof.Machine

/-- The primary register at SP, then SP - 1. -/
def pushBody (p : Reg) (u : State) : State := pushByte (readRegister p u) u

/-- PUSH (R150): no flag. -/
def execPush (p : Reg) (s : State) : Host.Outcome State Fault Refusal := inFrame (pushBody p) s

/-- SP + 1, then the register from the cell at the new SP, through the guarded write. -/
def popBody (p : Reg) (u : State) : State := writeRegister p (raw (stackByte (raiseSp u))) (raiseSp u)

/-- POP (R151): the guarded write of a byte clears C. -/
def execPop (p : Reg) (s : State) : Host.Outcome State Fault Refusal := inFrame (popBody p) s

end Sys2Proof.Machine
end

