-- ==== Sys2Proof/Machine/System.lean ====
section
/-!
DEFINITION. HALT and INT (spec/41_system.md).
-/

namespace Sys2Proof.Machine

/-- Setting `halted`, silently: it has no guarded write (10_state R23). -/
def setHalted (u : State) : State := { u with halted := true }

/-- HALT (R100): IP stays at the address after it. -/
def execHalt (s : State) : Host.Outcome State Fault Refusal := inFrame setHalted s

/-- INT n (R101): dispatch the raw operand byte. -/
def execInt (n : Byte) (s : State) : Host.Outcome State Fault Refusal := inFrame (dispatch n) s

end Sys2Proof.Machine
end

