-- ==== Sys2Proof/Machine/Unary.lean ====
section
/-!
DEFINITION. One-operand operations and the reserved sub-operations (spec/45_unary.md).
-/

namespace Sys2Proof.Machine

/-- The shape of four of them: the raw result of the secondary register back into it, through the guarded
write, which sets C from the clamp (R146). -/
def unaryBody (op : Byte → Int) (r : Reg) (u : State) : State :=
  writeRegister r (op (readRegister r u)) u

/-- INC (R140). -/
def execInc (r : Reg) (s : State) : Host.Outcome State Fault Refusal :=
  inFrame (unaryBody (fun x => raw x + 1) r) s

/-- DEC (R141). -/
def execDec (r : Reg) (s : State) : Host.Outcome State Fault Refusal :=
  inFrame (unaryBody (fun x => raw x - 1) r) s

/-- Every bit inverted; C becomes the open parameter `NOT_CARRY` (log 5). -/
def complementBody (r : Reg) (u : State) : State := storeRegister r (~~~(readRegister r u)) Config.notCarry u

/-- NOT (R142). -/
def execNot (r : Reg) (s : State) : Host.Outcome State Fault Refusal := inFrame (complementBody r) s

/-- ASL (R143): doubled; C gets the bit shifted out. -/
def execAsl (r : Reg) (s : State) : Host.Outcome State Fault Refusal :=
  inFrame (unaryBody (fun x => 2 * raw x) r) s

/-- ASR (R144): halved, rounding down; no sign extension, C always 0 (90_conflicts C2). -/
def execAsr (r : Reg) (s : State) : Host.Outcome State Fault Refusal :=
  inFrame (unaryBody (fun x => raw x / 2) r) s

/-- UNARY with sub-operation 5 (R145): a Fault before the IP advance, recording IP and b0. -/
def execUnaryReserved5 (b0 : Byte) (s : State) : Host.Outcome State Fault Refusal :=
  .fault (.reservedUnarySubop s.ip b0)

/-- UNARY with sub-operation 6 or 7 (R145): the same Fault. -/
def execUnaryReserved67 (b0 : Byte) (s : State) : Host.Outcome State Fault Refusal :=
  .fault (.reservedUnarySubop s.ip b0)

end Sys2Proof.Machine
end

