-- ==== Sys2Proof/Machine/Dispatch.lean ====
section
/-!
DEFINITION. One arm per constructor of Instr: part 5 of a step (spec/40_step_cycle.md R88) with the frame each
meaning carries (R85, R89).
-/

namespace Sys2Proof.Machine

def exec (i : Instr) (s : State) : Host.Outcome State Fault Refusal :=
  match i with
  | .halt => Sys2Proof.Machine.execHalt s
  | .int n => Sys2Proof.Machine.execInt n s
  | .cmp p src => Sys2Proof.Machine.execCmp p src s
  | .jmp t => Sys2Proof.Machine.execJmp t s
  | .call src => Sys2Proof.Machine.execCall src s
  | .ret => Sys2Proof.Machine.execRet s
  | .jz t => Sys2Proof.Machine.execJz t s
  | .jnz t => Sys2Proof.Machine.execJnz t s
  | .jc t => Sys2Proof.Machine.execJc t s
  | .jnc t => Sys2Proof.Machine.execJnc t s
  | .load p src => Sys2Proof.Machine.execLoad p src s
  | .store p dst => Sys2Proof.Machine.execStore p dst s
  | .storeInvalid b => Sys2Proof.Machine.execStoreInvalid b s
  | .add p src => Sys2Proof.Machine.execAdd p src s
  | .sub p src => Sys2Proof.Machine.execSub p src s
  | .and p src => Sys2Proof.Machine.execAnd p src s
  | .or p src => Sys2Proof.Machine.execOr p src s
  | .xor p src => Sys2Proof.Machine.execXor p src s
  | .inc r => Sys2Proof.Machine.execInc r s
  | .dec r => Sys2Proof.Machine.execDec r s
  | .not r => Sys2Proof.Machine.execNot r s
  | .asl r => Sys2Proof.Machine.execAsl r s
  | .asr r => Sys2Proof.Machine.execAsr r s
  | .unaryReserved5 b => Sys2Proof.Machine.execUnaryReserved5 b s
  | .unaryReserved67 b => Sys2Proof.Machine.execUnaryReserved67 b s
  | .push p => Sys2Proof.Machine.execPush p s
  | .pop p => Sys2Proof.Machine.execPop p s

end Sys2Proof.Machine
end

