-- ==== Sys2Proof/Machine/Step.lean ====
section
/-!
DEFINITION. One step of the block (spec/40_step_cycle.md R90), and the host's placing of an instruction.
-/

namespace Sys2Proof.Machine

/-- The step of R90, its tests in that order: a halted machine does nothing (R81); while a handler is in flight
the engine is held (R82) and the move is the handler's (60_exceptions R167, R168; log 6); a fetch at IP = 0xFF
is a Fault (R91); else the two bytes at IP are fetched (R83), decoded (R84) and executed (R85 to R89). -/
def step (s : State) : Host.Outcome State Fault Refusal :=
  if s.halted then .next s
  else if s.interrupted then .next (handlerMove s)
  else if s.ip = 0xFF#8 then .fault (.fetchOutOfRange s.ip)
  else exec (decode (fetchBytes s).1 (fetchBytes s).2) s

/-- The address at which a placed instruction is fetched: IP, unless it is 0xFF, where none can be. -/
def placeAt (ip : Byte) : Byte := if ip = 0xFF#8 then 0x00#8 else ip

/-- Store two bytes where the next step fetches. -/
def placeBytes (s : State) (b0 b1 : Byte) : State :=
  { s with
    mem := writeCell (writeCell s.mem (placeAt s.ip).toNat b0) (placeAt s.ip + 1#8).toNat b1
    ip := placeAt s.ip
    halted := false
    interrupted := false
    pending := none }

/-- The state with the instruction of a table pattern where the next step fetches it, and the engine free to
step (log 12). It stands for the loader and emits nothing. -/
def State.withFetchWord (s : State) (nbits w : Nat) : State :=
  match bytesOfTableWord nbits w with
  | b0 :: b1 :: _ => placeBytes s b0 b1
  | _ => s

end Sys2Proof.Machine
end

