-- ==== Sys2Proof/Machine/HostPort.lean ====
section
/-!
DEFINITION. What the host may do to the block besides stepping it (spec/00_scope.md R7,
spec/70_reset_and_hazards.md R190 to R195, R200). None of these is called by `step` (log 11).
-/

namespace Sys2Proof.Machine

/-- `HOST.reset` (R190 to R194): every field of Machine State takes its construction value, silently; the
Interrupt Table and the observers' stream stay; no such move while a handler is in flight. The ticket counter
goes on, so that no draw repeats (log 3). -/
def hostReset (s : State) : Host.Outcome State Fault Refusal :=
  if s.interrupted then .refused .resetWhileInterrupted
  else .next { State.reset with intTable := s.intTable, draws := s.draws, events := s.events }

/-- Where the host stands in a run: registering is for setup, before the first step (60_exceptions R164). -/
inductive Phase where
  | setup
  | running
  deriving DecidableEq, Repr

/-- `HOST.register(id, h)` (60_exceptions R164): last writer wins; no event; refused during a run (U11) and for
an id outside 0 to 255 (10_state R27). -/
def hostRegister (phase : Phase) (id : Int) (h : Handler) (s : State) : Host.Outcome State Fault Refusal :=
  match phase with
  | .running => .refused .registerDuringRun
  | .setup =>
    match byteOfInt id with
    | none => .refused .argumentOutOfRange
    | some b => .next { s with intTable := insertKey b.toNat h s.intTable }

/-- `HOST.write*` (R200, 10_state R27): one guarded write between steps. -/
def hostWrite (w : GuardedWrite) (s : State) : Host.Outcome State Fault Refusal :=
  if s.interrupted then .refused .writeWhileInterrupted
  else match guardedWrite w s with
    | none => .refused .argumentOutOfRange
    | some t => .next t

/-- The bytes of an image, one guarded memory write each, in order (R195). -/
def loadImage (image : List (Byte × Byte)) (s : State) : State :=
  image.foldl (fun s c => writeMemory c.1 (raw c.2) s) s

/-- The loader (R195): host writes of memory, and so refused while a handler is in flight, as every host write is
(R200, 20_memory R50). -/
def hostLoad (image : List (Byte × Byte)) (s : State) : Host.Outcome State Fault Refusal :=
  if s.interrupted then .refused .writeWhileInterrupted else .next (loadImage image s)

end Sys2Proof.Machine
end

