-- ==== Sys2Proof/Safety.lean ====
section
/-!
DEFINITION. The terms claims use: the invariant of the machine, the end of a run, what a frame leaves
unchanged, and the observer that follows the notification stream.
-/

namespace Sys2Proof.Machine

/-- The canonical form of the Interrupt Table: rising ids, all below 256 (10_state R25). -/
def tableWf (t : List (Nat × Handler)) : Bool :=
  risingFrom 0 t && t.all fun e => decide (e.1 < Config.numInterrupts)

/-- What every state of a run meets: canonical memory and table; a handler's work is recorded exactly while
`interrupted` holds (60_exceptions R166, R168); and a halted machine has no handler in flight (41_system
R100: HALT cannot execute while one is). -/
def State.inv (s : State) : Prop :=
  Memory.wf s.mem = true ∧ tableWf s.intTable = true ∧ s.interrupted = s.pending.isSome ∧
    (s.halted = true → s.interrupted = false)

/-- A run has ended (40_step_cycle R92). -/
def State.ended (s : State) : Bool := s.halted && !s.interrupted

/-- The step of this state is a Fault. -/
def State.faults (s : State) : Prop := ∃ r, step s = .fault r

/-- So many steps, stopping at the first that answers no next state (40_step_cycle R92). -/
def runFor : Nat → State → Host.Outcome State Fault Refusal
  | 0, s => .next s
  | k + 1, s =>
    match step s with
    | .next t => runFor k t
    | .fault f => .fault f
    | .refused r => .refused r

/-- The engine can fetch: running, no handler in flight, IP not 0xFF (40_step_cycle R90). -/
def State.canFetch (s : State) : Prop := s.halted = false ∧ s.interrupted = false ∧ s.ip ≠ 0xFF#8

/-- Every byte of memory reads the same. -/
def SameMemory (s t : State) : Prop := ∀ a, readMemory a t = readMemory a s

/-- Every byte of memory but the one at `a` reads the same. -/
def SameMemoryBut (a : Byte) (s t : State) : Prop := ∀ b, b ≠ a → readMemory b t = readMemory b s

/-- Every register is unchanged. -/
def SameRegisters (s t : State) : Prop := ∀ r, readRegister r t = readRegister r s

/-- Every register but `p` is unchanged. -/
def SameRegistersBut (p : Reg) (s t : State) : Prop := ∀ r, r ≠ p → readRegister r t = readRegister r s

/-- Both flags are unchanged. -/
def SameFlags (s t : State) : Prop := t.zero = s.zero ∧ t.carry = s.carry

/-- What only HALT, INT, a handler and reset touch: `halted`, `interrupted`, the Interrupt Table, the handler
in flight, and the model's ticket counter. -/
def SameStatus (s t : State) : Prop :=
  t.halted = s.halted ∧ t.interrupted = s.interrupted ∧ t.intTable = s.intTable ∧ t.pending = s.pending ∧
    t.draws = s.draws

/-- What an instruction that writes one register, and with it C, leaves alone (10_state R13, R22): Z, every
other register, all of memory, SP; IP has advanced by 2. -/
def RegisterFrame (p : Reg) (s t : State) : Prop :=
  t.zero = s.zero ∧ SameRegistersBut p s t ∧ SameMemory s t ∧ t.ip = s.ip + 2#8 ∧ t.sp = s.sp ∧ SameStatus s t

/-- The operand form read from `m = b0[1:0]` and the operand byte (30_encoding R62, R63), in numbers. -/
def ReadsOperand (b0 b1 : Byte) (src : Operand) : Prop :=
  operandMode src = b0.toNat % 4 ∧
    match src with
    | .reg r => regIndex r = b1.toNat % 4
    | .const k => k = b1
    | .abs a => a = b1
    | .idx r => regIndex r = b1.toNat % 4

/-- The decoded word is a REG_MODE row of the table (30_encoding R75): primary register `b0[3:2]`, operand form
from the mode. -/
def ReadsRegMode (mk : Reg → Operand → Instr) (b0 b1 : Byte) : Prop :=
  ∃ p src, decode b0 b1 = mk p src ∧ regIndex p = b0.toNat / 4 % 4 ∧ ReadsOperand b0 b1 src

/-- The decoded word is a UNARY row: the register is `b1[1:0]` (R62, R66). -/
def ReadsSecondary (mk : Reg → Instr) (b0 b1 : Byte) : Prop :=
  ∃ r, decode b0 b1 = mk r ∧ regIndex r = b1.toNat % 4

/-- The decoded word is a STACK row: the register is `b0[3:2]` (R67). -/
def ReadsPrimary (mk : Reg → Instr) (b0 b1 : Byte) : Prop :=
  ∃ r, decode b0 b1 = mk r ∧ regIndex r = b0.toNat / 4 % 4

/-- The events a step appends (40_step_cycle R90): `ip-changed` with the advanced IP, the body's, and
`step-completed`. -/
def EmitsInFrame (body : List Event) (s t : State) : Prop :=
  t.events = s.events ++ [.ipChanged (s.ip + 2#8)] ++ body ++ [.stepCompleted]

/-- The part of the state an observer can follow (10_state R28). -/
structure Mirror where
  mem : Memory
  regs : RegFile
  ip : Byte
  sp : Byte
  zero : Bool
  carry : Bool
  deriving DecidableEq, Repr

/-- That part of a state. -/
def State.mirror (s : State) : Mirror where
  mem := s.mem
  regs := s.regs
  ip := s.ip
  sp := s.sp
  zero := s.zero
  carry := s.carry

/-- An observer that knows nothing but the events: it takes each at its word (10_state R28, payloads D13). -/
def Mirror.observe (m : Mirror) : Event → Mirror
  | .memoryChanged a v => { m with mem := writeCell m.mem a.toNat v }
  | .memoryChangedAt _ _ => m
  | .carryFlagChanged b => { m with carry := b }
  | .registerChanged i v => { m with regs := m.regs.set i v }
  | .registerChangedAt _ _ => m
  | .ipChanged v => { m with ip := v }
  | .spChanged v => { m with sp := v }
  | .zeroFlagChanged b => { m with zero := b }
  | .stepCompleted => m

/-- The one address an instruction stores to in this state, if it stores (20_memory R44): STORE's operand
address, and for CALL and PUSH the cell at SP. -/
def storedAddress (i : Instr) (s : State) : Option Byte :=
  match i with
  | .store _ dst => some (operandAddress dst s)
  | .call _ | .push _ => some s.sp
  | .halt | .int _ | .cmp _ _ | .jmp _ | .ret | .jz _ | .jnz _ | .jc _ | .jnc _ => none
  | .load _ _ | .storeInvalid _ | .add _ _ | .sub _ _ | .and _ _ | .or _ _ | .xor _ _ => none
  | .inc _ | .dec _ | .not _ | .asl _ | .asr _ | .unaryReserved5 _ | .unaryReserved67 _ | .pop _ => none

/-- The one register an instruction writes, if it writes one (10_state R12). -/
def writtenRegister : Instr → Option Reg
  | .load p _ | .add p _ | .sub p _ | .and p _ | .or p _ | .xor p _ | .pop p => some p
  | .inc r | .dec r | .not r | .asl r | .asr r => some r
  | .halt | .int _ | .cmp _ _ | .jmp _ | .call _ | .ret | .jz _ | .jnz _ | .jc _ | .jnc _ => none
  | .store _ _ | .storeInvalid _ | .unaryReserved5 _ | .unaryReserved67 _ | .push _ => none

/-- The instructions whose body may write IP again (10_state R14); INT is not among them, its handler may. -/
def bodyWritesIp : Instr → Bool
  | .jmp _ | .call _ | .ret | .jz _ | .jnz _ | .jc _ | .jnc _ => true
  | .halt | .int _ | .cmp _ _ | .load _ _ | .store _ _ | .storeInvalid _ | .add _ _ | .sub _ _ => false
  | .and _ _ | .or _ _ | .xor _ _ | .inc _ | .dec _ | .not _ | .asl _ | .asr _ => false
  | .unaryReserved5 _ | .unaryReserved67 _ | .push _ | .pop _ => false

/-- The instructions that write SP (10_state R16); INT is not among them, its handler may. -/
def bodyWritesSp : Instr → Bool
  | .call _ | .ret | .push _ | .pop _ => true
  | .halt | .int _ | .cmp _ _ | .jmp _ | .jz _ | .jnz _ | .jc _ | .jnc _ | .load _ _ | .store _ _ => false
  | .storeInvalid _ | .add _ _ | .sub _ _ | .and _ _ | .or _ _ | .xor _ _ | .inc _ | .dec _ | .not _ => false
  | .asl _ | .asr _ | .unaryReserved5 _ | .unaryReserved67 _ => false

end Sys2Proof.Machine
end

