-- ==== Sys2Proof/Laws/State.lean ====
section
/-!
SUPPORT. What each named update of State does to each field, true by unfolding the update, so that no later
proof unfolds one.
-/

namespace Sys2Proof.Machine

variable (s : State)

/-! `emit`. -/

@[simp] theorem emit_mem (e : Event) : (emit e s).mem = s.mem := rfl
@[simp] theorem emit_regs (e : Event) : (emit e s).regs = s.regs := rfl
@[simp] theorem emit_ip (e : Event) : (emit e s).ip = s.ip := rfl
@[simp] theorem emit_sp (e : Event) : (emit e s).sp = s.sp := rfl
@[simp] theorem emit_zero (e : Event) : (emit e s).zero = s.zero := rfl
@[simp] theorem emit_carry (e : Event) : (emit e s).carry = s.carry := rfl
@[simp] theorem emit_halted (e : Event) : (emit e s).halted = s.halted := rfl
@[simp] theorem emit_interrupted (e : Event) : (emit e s).interrupted = s.interrupted := rfl
@[simp] theorem emit_intTable (e : Event) : (emit e s).intTable = s.intTable := rfl
@[simp] theorem emit_pending (e : Event) : (emit e s).pending = s.pending := rfl
@[simp] theorem emit_draws (e : Event) : (emit e s).draws = s.draws := rfl
@[simp] theorem emit_events (e : Event) : (emit e s).events = s.events ++ [e] := rfl

/-! `writeMemory`. -/

@[simp] theorem writeMemory_mem (a : Byte) (v : Int) :
    (writeMemory a v s).mem =
      writeCell s.mem a.toNat (clampValue v) := rfl
@[simp] theorem writeMemory_regs (a : Byte) (v : Int) : (writeMemory a v s).regs = s.regs := rfl
@[simp] theorem writeMemory_ip (a : Byte) (v : Int) : (writeMemory a v s).ip = s.ip := rfl
@[simp] theorem writeMemory_sp (a : Byte) (v : Int) : (writeMemory a v s).sp = s.sp := rfl
@[simp] theorem writeMemory_zero (a : Byte) (v : Int) : (writeMemory a v s).zero = s.zero := rfl
@[simp] theorem writeMemory_carry (a : Byte) (v : Int) : (writeMemory a v s).carry = s.carry := rfl
@[simp] theorem writeMemory_halted (a : Byte) (v : Int) : (writeMemory a v s).halted = s.halted := rfl
@[simp] theorem writeMemory_interrupted (a : Byte) (v : Int) : (writeMemory a v s).interrupted = s.interrupted := rfl
@[simp] theorem writeMemory_intTable (a : Byte) (v : Int) : (writeMemory a v s).intTable = s.intTable := rfl
@[simp] theorem writeMemory_pending (a : Byte) (v : Int) : (writeMemory a v s).pending = s.pending := rfl
@[simp] theorem writeMemory_draws (a : Byte) (v : Int) : (writeMemory a v s).draws = s.draws := rfl
@[simp] theorem writeMemory_events (a : Byte) (v : Int) :
    (writeMemory a v s).events =
      s.events ++ [.memoryChanged a (clampValue v)] ++ [.memoryChangedAt a (clampValue v)] := rfl

/-! `writeCarryFlag`. -/

@[simp] theorem writeCarryFlag_mem (b : Bool) : (writeCarryFlag b s).mem = s.mem := rfl
@[simp] theorem writeCarryFlag_regs (b : Bool) : (writeCarryFlag b s).regs = s.regs := rfl
@[simp] theorem writeCarryFlag_ip (b : Bool) : (writeCarryFlag b s).ip = s.ip := rfl
@[simp] theorem writeCarryFlag_sp (b : Bool) : (writeCarryFlag b s).sp = s.sp := rfl
@[simp] theorem writeCarryFlag_zero (b : Bool) : (writeCarryFlag b s).zero = s.zero := rfl
@[simp] theorem writeCarryFlag_carry (b : Bool) : (writeCarryFlag b s).carry = b := rfl
@[simp] theorem writeCarryFlag_halted (b : Bool) : (writeCarryFlag b s).halted = s.halted := rfl
@[simp] theorem writeCarryFlag_interrupted (b : Bool) : (writeCarryFlag b s).interrupted = s.interrupted := rfl
@[simp] theorem writeCarryFlag_intTable (b : Bool) : (writeCarryFlag b s).intTable = s.intTable := rfl
@[simp] theorem writeCarryFlag_pending (b : Bool) : (writeCarryFlag b s).pending = s.pending := rfl
@[simp] theorem writeCarryFlag_draws (b : Bool) : (writeCarryFlag b s).draws = s.draws := rfl
@[simp] theorem writeCarryFlag_events (b : Bool) :
    (writeCarryFlag b s).events =
      s.events ++ [.carryFlagChanged b] := rfl

/-! `writeZeroFlag`. -/

@[simp] theorem writeZeroFlag_mem (b : Bool) : (writeZeroFlag b s).mem = s.mem := rfl
@[simp] theorem writeZeroFlag_regs (b : Bool) : (writeZeroFlag b s).regs = s.regs := rfl
@[simp] theorem writeZeroFlag_ip (b : Bool) : (writeZeroFlag b s).ip = s.ip := rfl
@[simp] theorem writeZeroFlag_sp (b : Bool) : (writeZeroFlag b s).sp = s.sp := rfl
@[simp] theorem writeZeroFlag_zero (b : Bool) : (writeZeroFlag b s).zero = b := rfl
@[simp] theorem writeZeroFlag_carry (b : Bool) : (writeZeroFlag b s).carry = s.carry := rfl
@[simp] theorem writeZeroFlag_halted (b : Bool) : (writeZeroFlag b s).halted = s.halted := rfl
@[simp] theorem writeZeroFlag_interrupted (b : Bool) : (writeZeroFlag b s).interrupted = s.interrupted := rfl
@[simp] theorem writeZeroFlag_intTable (b : Bool) : (writeZeroFlag b s).intTable = s.intTable := rfl
@[simp] theorem writeZeroFlag_pending (b : Bool) : (writeZeroFlag b s).pending = s.pending := rfl
@[simp] theorem writeZeroFlag_draws (b : Bool) : (writeZeroFlag b s).draws = s.draws := rfl
@[simp] theorem writeZeroFlag_events (b : Bool) : (writeZeroFlag b s).events = s.events ++ [.zeroFlagChanged b] := rfl

/-! `storeRegister`. -/

@[simp] theorem storeRegister_mem (i : Reg) (v : Byte) (c : Bool) : (storeRegister i v c s).mem = s.mem := rfl
@[simp] theorem storeRegister_regs (i : Reg) (v : Byte) (c : Bool) :
    (storeRegister i v c s).regs =
      s.regs.set i v := rfl
@[simp] theorem storeRegister_ip (i : Reg) (v : Byte) (c : Bool) : (storeRegister i v c s).ip = s.ip := rfl
@[simp] theorem storeRegister_sp (i : Reg) (v : Byte) (c : Bool) : (storeRegister i v c s).sp = s.sp := rfl
@[simp] theorem storeRegister_zero (i : Reg) (v : Byte) (c : Bool) : (storeRegister i v c s).zero = s.zero := rfl
@[simp] theorem storeRegister_carry (i : Reg) (v : Byte) (c : Bool) : (storeRegister i v c s).carry = c := rfl
@[simp] theorem storeRegister_halted (i : Reg) (v : Byte) (c : Bool) :
    (storeRegister i v c s).halted =
      s.halted := rfl
@[simp] theorem storeRegister_interrupted (i : Reg) (v : Byte) (c : Bool) :
    (storeRegister i v c s).interrupted =
      s.interrupted := rfl
@[simp] theorem storeRegister_intTable (i : Reg) (v : Byte) (c : Bool) :
    (storeRegister i v c s).intTable =
      s.intTable := rfl
@[simp] theorem storeRegister_pending (i : Reg) (v : Byte) (c : Bool) :
    (storeRegister i v c s).pending =
      s.pending := rfl
@[simp] theorem storeRegister_draws (i : Reg) (v : Byte) (c : Bool) : (storeRegister i v c s).draws = s.draws := rfl
@[simp] theorem storeRegister_events (i : Reg) (v : Byte) (c : Bool) :
    (storeRegister i v c s).events =
      s.events ++ [.carryFlagChanged c] ++ [.registerChanged i v] ++ [.registerChangedAt i v] := rfl

/-! `writeRegister`. -/

@[simp] theorem writeRegister_mem (i : Reg) (v : Int) : (writeRegister i v s).mem = s.mem := rfl
@[simp] theorem writeRegister_regs (i : Reg) (v : Int) :
    (writeRegister i v s).regs =
      s.regs.set i (clampValue v) := rfl
@[simp] theorem writeRegister_ip (i : Reg) (v : Int) : (writeRegister i v s).ip = s.ip := rfl
@[simp] theorem writeRegister_sp (i : Reg) (v : Int) : (writeRegister i v s).sp = s.sp := rfl
@[simp] theorem writeRegister_zero (i : Reg) (v : Int) : (writeRegister i v s).zero = s.zero := rfl
@[simp] theorem writeRegister_carry (i : Reg) (v : Int) : (writeRegister i v s).carry = clampCarry v := rfl
@[simp] theorem writeRegister_halted (i : Reg) (v : Int) : (writeRegister i v s).halted = s.halted := rfl
@[simp] theorem writeRegister_interrupted (i : Reg) (v : Int) :
    (writeRegister i v s).interrupted =
      s.interrupted := rfl
@[simp] theorem writeRegister_intTable (i : Reg) (v : Int) : (writeRegister i v s).intTable = s.intTable := rfl
@[simp] theorem writeRegister_pending (i : Reg) (v : Int) : (writeRegister i v s).pending = s.pending := rfl
@[simp] theorem writeRegister_draws (i : Reg) (v : Int) : (writeRegister i v s).draws = s.draws := rfl
@[simp] theorem writeRegister_events (i : Reg) (v : Int) :
    (writeRegister i v s).events =
      s.events ++ [.carryFlagChanged (clampCarry v)] ++ [.registerChanged i (clampValue v)] ++
      [.registerChangedAt i (clampValue v)] := rfl

/-! `writeIp`. -/

@[simp] theorem writeIp_mem (v : Int) : (writeIp v s).mem = s.mem := rfl
@[simp] theorem writeIp_regs (v : Int) : (writeIp v s).regs = s.regs := rfl
@[simp] theorem writeIp_ip (v : Int) : (writeIp v s).ip = clampValue v := rfl
@[simp] theorem writeIp_sp (v : Int) : (writeIp v s).sp = s.sp := rfl
@[simp] theorem writeIp_zero (v : Int) : (writeIp v s).zero = s.zero := rfl
@[simp] theorem writeIp_carry (v : Int) : (writeIp v s).carry = s.carry := rfl
@[simp] theorem writeIp_halted (v : Int) : (writeIp v s).halted = s.halted := rfl
@[simp] theorem writeIp_interrupted (v : Int) : (writeIp v s).interrupted = s.interrupted := rfl
@[simp] theorem writeIp_intTable (v : Int) : (writeIp v s).intTable = s.intTable := rfl
@[simp] theorem writeIp_pending (v : Int) : (writeIp v s).pending = s.pending := rfl
@[simp] theorem writeIp_draws (v : Int) : (writeIp v s).draws = s.draws := rfl
@[simp] theorem writeIp_events (v : Int) : (writeIp v s).events = s.events ++ [.ipChanged (clampValue v)] := rfl

/-! `writeSp`. -/

@[simp] theorem writeSp_mem (v : Int) : (writeSp v s).mem = s.mem := rfl
@[simp] theorem writeSp_regs (v : Int) : (writeSp v s).regs = s.regs := rfl
@[simp] theorem writeSp_ip (v : Int) : (writeSp v s).ip = s.ip := rfl
@[simp] theorem writeSp_sp (v : Int) : (writeSp v s).sp = clampValue v := rfl
@[simp] theorem writeSp_zero (v : Int) : (writeSp v s).zero = s.zero := rfl
@[simp] theorem writeSp_carry (v : Int) : (writeSp v s).carry = s.carry := rfl
@[simp] theorem writeSp_halted (v : Int) : (writeSp v s).halted = s.halted := rfl
@[simp] theorem writeSp_interrupted (v : Int) : (writeSp v s).interrupted = s.interrupted := rfl
@[simp] theorem writeSp_intTable (v : Int) : (writeSp v s).intTable = s.intTable := rfl
@[simp] theorem writeSp_pending (v : Int) : (writeSp v s).pending = s.pending := rfl
@[simp] theorem writeSp_draws (v : Int) : (writeSp v s).draws = s.draws := rfl
@[simp] theorem writeSp_events (v : Int) : (writeSp v s).events = s.events ++ [.spChanged (clampValue v)] := rfl

/-! `pushByte`. -/

@[simp] theorem pushByte_mem (b : Byte) : (pushByte b s).mem = writeCell s.mem s.sp.toNat (clampValue (raw b)) := rfl
@[simp] theorem pushByte_regs (b : Byte) : (pushByte b s).regs = s.regs := rfl
@[simp] theorem pushByte_ip (b : Byte) : (pushByte b s).ip = s.ip := rfl
@[simp] theorem pushByte_sp (b : Byte) : (pushByte b s).sp = clampValue (raw s.sp - 1) := rfl
@[simp] theorem pushByte_zero (b : Byte) : (pushByte b s).zero = s.zero := rfl
@[simp] theorem pushByte_carry (b : Byte) : (pushByte b s).carry = s.carry := rfl
@[simp] theorem pushByte_halted (b : Byte) : (pushByte b s).halted = s.halted := rfl
@[simp] theorem pushByte_interrupted (b : Byte) : (pushByte b s).interrupted = s.interrupted := rfl
@[simp] theorem pushByte_intTable (b : Byte) : (pushByte b s).intTable = s.intTable := rfl
@[simp] theorem pushByte_pending (b : Byte) : (pushByte b s).pending = s.pending := rfl
@[simp] theorem pushByte_draws (b : Byte) : (pushByte b s).draws = s.draws := rfl
@[simp] theorem pushByte_events (b : Byte) :
    (pushByte b s).events =
      s.events ++ [.memoryChanged s.sp (clampValue (raw b))] ++
      [.memoryChangedAt s.sp (clampValue (raw b))] ++ [.spChanged (clampValue (raw s.sp - 1))] := rfl

/-! `raiseSp`. -/

@[simp] theorem raiseSp_mem : (raiseSp s).mem = s.mem := rfl
@[simp] theorem raiseSp_regs : (raiseSp s).regs = s.regs := rfl
@[simp] theorem raiseSp_ip : (raiseSp s).ip = s.ip := rfl
@[simp] theorem raiseSp_sp : (raiseSp s).sp = clampValue (raw s.sp + 1) := rfl
@[simp] theorem raiseSp_zero : (raiseSp s).zero = s.zero := rfl
@[simp] theorem raiseSp_carry : (raiseSp s).carry = s.carry := rfl
@[simp] theorem raiseSp_halted : (raiseSp s).halted = s.halted := rfl
@[simp] theorem raiseSp_interrupted : (raiseSp s).interrupted = s.interrupted := rfl
@[simp] theorem raiseSp_intTable : (raiseSp s).intTable = s.intTable := rfl
@[simp] theorem raiseSp_pending : (raiseSp s).pending = s.pending := rfl
@[simp] theorem raiseSp_draws : (raiseSp s).draws = s.draws := rfl
@[simp] theorem raiseSp_events : (raiseSp s).events = s.events ++ [.spChanged (clampValue (raw s.sp + 1))] := rfl

/-! `advanceIp`. -/

@[simp] theorem advanceIp_mem : (advanceIp s).mem = s.mem := rfl
@[simp] theorem advanceIp_regs : (advanceIp s).regs = s.regs := rfl
@[simp] theorem advanceIp_ip : (advanceIp s).ip = clampValue (raw s.ip + 2) := rfl
@[simp] theorem advanceIp_sp : (advanceIp s).sp = s.sp := rfl
@[simp] theorem advanceIp_zero : (advanceIp s).zero = s.zero := rfl
@[simp] theorem advanceIp_carry : (advanceIp s).carry = s.carry := rfl
@[simp] theorem advanceIp_halted : (advanceIp s).halted = s.halted := rfl
@[simp] theorem advanceIp_interrupted : (advanceIp s).interrupted = s.interrupted := rfl
@[simp] theorem advanceIp_intTable : (advanceIp s).intTable = s.intTable := rfl
@[simp] theorem advanceIp_pending : (advanceIp s).pending = s.pending := rfl
@[simp] theorem advanceIp_draws : (advanceIp s).draws = s.draws := rfl
@[simp] theorem advanceIp_events : (advanceIp s).events = s.events ++ [.ipChanged (clampValue (raw s.ip + 2))] := rfl

/-! `enterHandler`. -/

@[simp] theorem enterHandler_mem : (enterHandler s).mem = s.mem := rfl
@[simp] theorem enterHandler_regs : (enterHandler s).regs = s.regs := rfl
@[simp] theorem enterHandler_ip : (enterHandler s).ip = s.ip := rfl
@[simp] theorem enterHandler_sp : (enterHandler s).sp = s.sp := rfl
@[simp] theorem enterHandler_zero : (enterHandler s).zero = s.zero := rfl
@[simp] theorem enterHandler_carry : (enterHandler s).carry = s.carry := rfl
@[simp] theorem enterHandler_halted : (enterHandler s).halted = s.halted := rfl
@[simp] theorem enterHandler_interrupted : (enterHandler s).interrupted = true := rfl
@[simp] theorem enterHandler_intTable : (enterHandler s).intTable = s.intTable := rfl
@[simp] theorem enterHandler_pending : (enterHandler s).pending = s.pending := rfl
@[simp] theorem enterHandler_draws : (enterHandler s).draws = s.draws := rfl
@[simp] theorem enterHandler_events : (enterHandler s).events = s.events := rfl

/-! `completeHandler`. -/

@[simp] theorem completeHandler_mem : (completeHandler s).mem = s.mem := rfl
@[simp] theorem completeHandler_regs : (completeHandler s).regs = s.regs := rfl
@[simp] theorem completeHandler_ip : (completeHandler s).ip = s.ip := rfl
@[simp] theorem completeHandler_sp : (completeHandler s).sp = s.sp := rfl
@[simp] theorem completeHandler_zero : (completeHandler s).zero = s.zero := rfl
@[simp] theorem completeHandler_carry : (completeHandler s).carry = s.carry := rfl
@[simp] theorem completeHandler_halted : (completeHandler s).halted = s.halted := rfl
@[simp] theorem completeHandler_interrupted : (completeHandler s).interrupted = false := rfl
@[simp] theorem completeHandler_intTable : (completeHandler s).intTable = s.intTable := rfl
@[simp] theorem completeHandler_pending : (completeHandler s).pending = none := rfl
@[simp] theorem completeHandler_draws : (completeHandler s).draws = s.draws := rfl
@[simp] theorem completeHandler_events : (completeHandler s).events = s.events := rfl

/-! `nextTicket`. -/

@[simp] theorem nextTicket_mem : (nextTicket s).mem = s.mem := rfl
@[simp] theorem nextTicket_regs : (nextTicket s).regs = s.regs := rfl
@[simp] theorem nextTicket_ip : (nextTicket s).ip = s.ip := rfl
@[simp] theorem nextTicket_sp : (nextTicket s).sp = s.sp := rfl
@[simp] theorem nextTicket_zero : (nextTicket s).zero = s.zero := rfl
@[simp] theorem nextTicket_carry : (nextTicket s).carry = s.carry := rfl
@[simp] theorem nextTicket_halted : (nextTicket s).halted = s.halted := rfl
@[simp] theorem nextTicket_interrupted : (nextTicket s).interrupted = s.interrupted := rfl
@[simp] theorem nextTicket_intTable : (nextTicket s).intTable = s.intTable := rfl
@[simp] theorem nextTicket_pending : (nextTicket s).pending = s.pending := rfl
@[simp] theorem nextTicket_draws : (nextTicket s).draws = s.draws + 1 := rfl
@[simp] theorem nextTicket_events : (nextTicket s).events = s.events := rfl

/-! Reading a register or a byte after an update that leaves it alone. -/

@[simp] theorem get_set_same (f : RegFile) (i : Reg) (v : Byte) : (f.set i v).get i = v := by
  cases i <;> rfl

theorem get_set_other (f : RegFile) {i j : Reg} (v : Byte) (h : j ≠ i) : (f.set i v).get j = f.get j := by
  cases i <;> cases j <;> first | rfl | exact absurd rfl h

theorem readRegister_congr {s t : State} (h : t.regs = s.regs) (i : Reg) :
    readRegister i t = readRegister i s := by
  simp [readRegister, h]

theorem readMemory_congr {s t : State} (h : t.mem = s.mem) (a : Byte) : readMemory a t = readMemory a s := by
  simp [readMemory, h]

@[simp] theorem readRegister_advanceIp (i : Reg) : readRegister i (advanceIp s) = readRegister i s := rfl

@[simp] theorem readMemory_advanceIp (a : Byte) : readMemory a (advanceIp s) = readMemory a s := rfl

@[simp] theorem operandValue_advanceIp (src : Operand) : operandValue src (advanceIp s) = operandValue src s := by
  cases src <;> rfl

@[simp] theorem operandAddress_advanceIp (dst : Dest) :
    operandAddress dst (advanceIp s) = operandAddress dst s := by
  cases dst <;> rfl

end Sys2Proof.Machine
end

