-- ==== Sys2Proof/Laws/Memory.lean ====
section
/-!
SUPPORT. The laws of the sorted lists behind memory and the Interrupt Table: what a read gives after a write,
that every operation keeps the canonical form, and that two canonical memories that read alike are equal.
-/

namespace Sys2Proof.Machine

/-! Reading after writing. -/

@[simp] theorem lookupKey_insertKey_same {α : Type} (k : Nat) (v : α) (m : List (Nat × α)) :
    lookupKey k (insertKey k v m) = some v := by
  induction m with
  | nil => simp [insertKey, lookupKey]
  | cons c t ih =>
    obtain ⟨j, w⟩ := c
    simp only [insertKey]
    split
    · simp [lookupKey]
    · split
      · simp [lookupKey]
      · next h => simp [lookupKey, Ne.symm h, ih]

theorem lookupKey_insertKey_other {α : Type} {k j : Nat} (v : α) (m : List (Nat × α)) (h : j ≠ k) :
    lookupKey j (insertKey k v m) = lookupKey j m := by
  induction m with
  | nil => simp [insertKey, lookupKey, Ne.symm h]
  | cons c t ih =>
    obtain ⟨i, w⟩ := c
    simp only [insertKey]
    split
    · simp [lookupKey, Ne.symm h]
    · split
      · next e => subst e; simp [lookupKey, Ne.symm h]
      · simp only [lookupKey, ih]

@[simp] theorem lookupKey_eraseKey_same {α : Type} (k : Nat) (m : List (Nat × α)) :
    lookupKey k (eraseKey k m) = none := by
  induction m with
  | nil => rfl
  | cons c t ih =>
    obtain ⟨j, w⟩ := c
    simp only [eraseKey]
    split
    · exact ih
    · next h => simp [lookupKey, h, ih]

theorem lookupKey_eraseKey_other {α : Type} {k j : Nat} (m : List (Nat × α)) (h : j ≠ k) :
    lookupKey j (eraseKey k m) = lookupKey j m := by
  induction m with
  | nil => rfl
  | cons c t ih =>
    obtain ⟨i, w⟩ := c
    simp only [eraseKey]
    split
    · next e => subst e; simp [lookupKey, Ne.symm h, ih]
    · simp only [lookupKey, ih]

/-- A read after a write to the same cell gives the byte written. -/
@[simp] theorem readCell_writeCell_same (m : Memory) (a : Nat) (v : Byte) : readCell (writeCell m a v) a = v := by
  unfold readCell writeCell
  split
  · next h => simp [h]
  · simp

/-- A write leaves every other cell alone. -/
theorem readCell_writeCell_other (m : Memory) {a b : Nat} (v : Byte) (h : b ≠ a) :
    readCell (writeCell m a v) b = readCell m b := by
  unfold readCell writeCell
  split
  · rw [lookupKey_eraseKey_other m h]
  · rw [lookupKey_insertKey_other v m h]

/-- The guarded memory write, read back at its address. -/
@[simp] theorem readMemory_writeMemory_same (a : Byte) (v : Int) (s : State) :
    readMemory a (writeMemory a v s) = clampValue v := by
  simp [readMemory]

/-- The guarded memory write, read at another address. -/
theorem readMemory_writeMemory_other {a b : Byte} (v : Int) (s : State) (h : b ≠ a) :
    readMemory b (writeMemory a v s) = readMemory b s := by
  have : b.toNat ≠ a.toNat := fun e => h (BitVec.eq_of_toNat_eq e)
  simp [readMemory, readCell_writeCell_other _ _ this]

/-! The canonical form. -/

theorem risingFrom_mono {α : Type} {lo lo' : Nat} (m : List (Nat × α)) (h : lo' ≤ lo)
    (w : risingFrom lo m = true) : risingFrom lo' m = true := by
  cases m with
  | nil => rfl
  | cons c t =>
    obtain ⟨j, x⟩ := c
    simp only [risingFrom, Bool.and_eq_true, decide_eq_true_eq] at w ⊢
    exact ⟨Nat.le_trans h w.1, w.2⟩

theorem risingFrom_insertKey {α : Type} {lo k : Nat} (v : α) (m : List (Nat × α)) (h : lo ≤ k)
    (w : risingFrom lo m = true) : risingFrom lo (insertKey k v m) = true := by
  induction m generalizing lo with
  | nil => simp [insertKey, risingFrom, h]
  | cons c t ih =>
    obtain ⟨j, x⟩ := c
    simp only [risingFrom, Bool.and_eq_true, decide_eq_true_eq] at w
    simp only [insertKey]
    split
    · simp only [risingFrom, Bool.and_eq_true, decide_eq_true_eq]
      exact ⟨h, by omega, w.2⟩
    · split
      · next e => subst e; simp [risingFrom, h, w.2]
      · simp only [risingFrom, Bool.and_eq_true, decide_eq_true_eq]
        exact ⟨w.1, ih (by omega) w.2⟩

theorem risingFrom_eraseKey {α : Type} {lo k : Nat} (m : List (Nat × α)) (w : risingFrom lo m = true) :
    risingFrom lo (eraseKey k m) = true := by
  induction m generalizing lo with
  | nil => rfl
  | cons c t ih =>
    obtain ⟨j, x⟩ := c
    simp only [risingFrom, Bool.and_eq_true, decide_eq_true_eq] at w
    simp only [eraseKey]
    split
    · exact risingFrom_mono _ (by omega) (ih w.2)
    · simp only [risingFrom, Bool.and_eq_true, decide_eq_true_eq]
      exact ⟨w.1, ih w.2⟩

theorem all_insertKey {α : Type} {k : Nat} {v : α} (q : Nat × α → Bool) (m : List (Nat × α)) (h : q (k, v) = true)
    (w : m.all q = true) : (insertKey k v m).all q = true := by
  induction m with
  | nil => simp [insertKey, h]
  | cons c t ih =>
    obtain ⟨j, x⟩ := c
    simp only [List.all_cons, Bool.and_eq_true] at w
    simp only [insertKey]
    split
    · simp [h, w.1, w.2]
    · split
      · simp [h, w.2]
      · simp [w.1, ih w.2]

theorem all_eraseKey {α : Type} {k : Nat} (q : Nat × α → Bool) (m : List (Nat × α)) (w : m.all q = true) :
    (eraseKey k m).all q = true := by
  induction m with
  | nil => rfl
  | cons c t ih =>
    obtain ⟨j, x⟩ := c
    simp only [List.all_cons, Bool.and_eq_true] at w
    simp only [eraseKey]
    split
    · exact ih w.2
    · simp [w.1, ih w.2]

/-- Every write to a cell of the address space keeps the canonical form. -/
theorem writeCell_wf {m : Memory} (a v : Byte) (w : Memory.wf m = true) : Memory.wf (writeCell m a.toNat v) = true := by
  simp only [Memory.wf, Bool.and_eq_true] at w ⊢
  unfold writeCell
  split
  · exact ⟨risingFrom_eraseKey m w.1, all_eraseKey _ m w.2⟩
  · next h =>
    refine ⟨risingFrom_insertKey v m (Nat.zero_le _) w.1, all_insertKey _ m ?_ w.2⟩
    simp only [Bool.and_eq_true, bne_iff_ne]
    exact ⟨decide_eq_true a.isLt, h⟩

/-- Binding an id keeps the table's canonical form. -/
theorem insertKey_tableWf {t : List (Nat × Handler)} (id : Byte) (h : Handler) (w : tableWf t = true) :
    tableWf (insertKey id.toNat h t) = true := by
  simp only [tableWf, Bool.and_eq_true] at w ⊢
  refine ⟨risingFrom_insertKey h t (Nat.zero_le _) w.1, all_insertKey _ t ?_ w.2⟩
  exact decide_eq_true id.isLt

theorem reset_mem_wf : Memory.wf State.reset.mem = true := by decide

/-- A key below the rising bound is not listed. -/
theorem lookupKey_of_lt {α : Type} {lo k : Nat} (m : List (Nat × α)) (w : risingFrom lo m = true) (h : k < lo) :
    lookupKey k m = none := by
  induction m generalizing lo with
  | nil => rfl
  | cons c t ih =>
    obtain ⟨j, x⟩ := c
    simp only [risingFrom, Bool.and_eq_true, decide_eq_true_eq] at w
    have hj : j ≠ k := by omega
    simp only [lookupKey, hj, if_false]
    exact ih w.2 (by omega)

end Sys2Proof.Machine
end

