-- ==== Sys2Proof/Laws/Clamp.lean ====
section
/-!
SUPPORT. The laws of the clamp (spec/10_state.md R10) and what it does to the raw results the instructions form.
-/

namespace Sys2Proof.Machine

/-- The clamped value as an integer is the raw result modulo 256. -/
theorem clampValue_toNat (r : Int) : ((clampValue r).toNat : Int) = r % 256 := by
  have h : (0 : Int) ≤ r % 256 := Int.emod_nonneg r (by decide)
  simp only [clampValue, BitVec.toNat_ofInt]
  omega

theorem raw_nonneg (b : Byte) : 0 ≤ raw b := Int.natCast_nonneg _

theorem raw_lt (b : Byte) : raw b < 256 := by
  have := b.isLt
  simp only [raw]
  omega

/-- Two raw results that agree modulo 256 clamp to the same byte. -/
theorem clampValue_eq_of_emod {r : Int} {b : Byte} (h : r % 256 = (b.toNat : Int)) : clampValue r = b := by
  apply BitVec.eq_of_toNat_eq
  have := clampValue_toNat r
  omega

/-- A byte clamps to itself, with no carry. -/
@[simp] theorem clampValue_raw (b : Byte) : clampValue (raw b) = b := by
  apply clampValue_eq_of_emod
  have := b.isLt
  simp only [raw]
  omega

@[simp] theorem clampCarry_raw (b : Byte) : clampCarry (raw b) = false := by
  simp [clampCarry, raw, show clampValue (b.toNat : Int) = b from clampValue_raw b]

/-- Adding a small constant to a byte wraps as the byte's own addition does. -/
theorem clampValue_raw_add (b k : Byte) : clampValue (raw b + raw k) = b + k := by
  apply clampValue_eq_of_emod
  simp only [raw, BitVec.toNat_add]
  omega

theorem clampValue_raw_sub (b k : Byte) : clampValue (raw b - raw k) = b - k := by
  apply clampValue_eq_of_emod
  have := b.isLt
  have := k.isLt
  simp only [raw, BitVec.toNat_sub]
  omega

@[simp] theorem clampValue_raw_add_one (b : Byte) : clampValue (raw b + 1) = b + 1#8 :=
  clampValue_raw_add b 1#8

@[simp] theorem clampValue_raw_add_two (b : Byte) : clampValue (raw b + 2) = b + 2#8 :=
  clampValue_raw_add b 2#8

@[simp] theorem clampValue_raw_sub_one (b : Byte) : clampValue (raw b - 1) = b - 1#8 :=
  clampValue_raw_sub b 1#8

/-- The carry says that the raw result was outside 0 to 255. -/
theorem clampCarry_eq_true_iff (r : Int) : clampCarry r = true ↔ r < 0 ∨ 255 < r := by
  have h := clampValue_toNat r
  simp only [clampCarry, bne_iff_ne, ne_eq, h]
  omega

theorem clampCarry_eq_decide (r : Int) : clampCarry r = decide (r < 0 ∨ 255 < r) := by
  rw [Bool.eq_iff_iff, clampCarry_eq_true_iff, decide_eq_true_iff]

end Sys2Proof.Machine
end

