-- ==== Sys2Proof/Laws/Step.lean ====
section
/-!
SUPPORT. What a step, an instruction's frame, a guarded write from outside and a handler's move can do, each
said once; later proofs cite these instead of unfolding the definitions.
-/

namespace Sys2Proof.Machine

/-- A meaning in the frame of a step always answers a next state: advance, body, `step-completed`. -/
theorem inFrame_eq (body : State → State) (s : State) :
    inFrame body s = .next (emit .stepCompleted (body (advanceIp s))) := rfl

theorem inFrame_next {body : State → State} {s t : State} (h : inFrame body s = .next t) :
    t = emit .stepCompleted (body (advanceIp s)) := by
  injection h with h
  exact h.symm

/-- An instruction that answers a next state is a body in the frame of a step, in every state (40_step_cycle
R85, R88, R89); in this state it ran that body. -/
theorem exec_next {i : Instr} {s t : State} (h : exec i s = .next t) :
    ∃ body, (∀ u, exec i u = inFrame body u) ∧ t = emit .stepCompleted (body (advanceIp s)) := by
  suffices key : ∃ body, ∀ u, exec i u = inFrame body u by
    obtain ⟨body, hb⟩ := key
    exact ⟨body, hb, inFrame_next ((hb s).symm.trans h)⟩
  cases i <;> first
    | exact ⟨_, fun _ => rfl⟩
    | cases h

/-- Everything a step that answers a next state can have been (40_step_cycle R90). -/
theorem step_cases {s t : State} (h : step s = .next t) :
    (s.halted = true ∧ t = s) ∨
    (s.halted = false ∧ s.interrupted = true ∧ t = handlerMove s) ∨
    (s.halted = false ∧ s.interrupted = false ∧ s.ip ≠ 0xFF#8 ∧
      exec (decode (fetchBytes s).1 (fetchBytes s).2) s = .next t) := by
  unfold step at h
  split at h
  · next hh => injection h with h; exact .inl ⟨hh, h.symm⟩
  · next hh =>
    have hh : s.halted = false := by simpa using hh
    split at h
    · next hi => injection h with h; exact .inr (.inl ⟨hh, hi, h.symm⟩)
    · next hi =>
      split at h
      · cases h
      · next hip => exact .inr (.inr ⟨hh, by simpa using hi, hip, h⟩)

/-- One step of a run. -/
theorem runFor_succ {s t : State} (h : step s = .next t) (k : Nat) : runFor (k + 1) s = runFor k t := by
  simp only [runFor, h]

/-- Everything a handler's access can do (60_exceptions R167; 10_state R27): nothing, or one guarded write. -/
theorem handlerWrite_cases (s : State) (w : GuardedWrite) :
    handlerWrite s w = s ∨ (∃ a v, handlerWrite s w = writeMemory a v s) ∨
    (∃ i v, handlerWrite s w = writeRegister i v s) ∨ (∃ v, handlerWrite s w = writeIp v s) ∨
    (∃ v, handlerWrite s w = writeSp v s) ∨ (∃ b, handlerWrite s w = writeZeroFlag b s) ∨
    (∃ b, handlerWrite s w = writeCarryFlag b s) := by
  cases w with
  | memory a v =>
    simp only [handlerWrite, guardedWrite]
    cases byteOfInt a with
    | none => exact .inl rfl
    | some a => exact .inr (.inl ⟨a, v, rfl⟩)
  | register i v =>
    simp only [handlerWrite, guardedWrite]
    cases regOfInt i with
    | none => exact .inl rfl
    | some i => exact .inr (.inr (.inl ⟨i, v, rfl⟩))
  | ip v => exact .inr (.inr (.inr (.inl ⟨v, rfl⟩)))
  | sp v => exact .inr (.inr (.inr (.inr (.inl ⟨v, rfl⟩))))
  | zero b =>
    simp only [handlerWrite, guardedWrite]
    cases bitOfInt b with
    | none => exact .inl rfl
    | some b => exact .inr (.inr (.inr (.inr (.inr (.inl ⟨b, rfl⟩)))))
  | carry b =>
    simp only [handlerWrite, guardedWrite]
    cases bitOfInt b with
    | none => exact .inl rfl
    | some b => exact .inr (.inr (.inr (.inr (.inr (.inr ⟨b, rfl⟩)))))

/-- A guarded write that is not refused is what a handler's access does. -/
theorem handlerWrite_of_guardedWrite {w : GuardedWrite} {s t : State} (h : guardedWrite w s = some t) :
    handlerWrite s w = t := by
  simp only [handlerWrite, h, Option.getD_some]

/-- A handler's access neither reads nor writes the record of its own work. -/
theorem handlerWrite_pending (s : State) (p : Option Pending) (w : GuardedWrite) :
    handlerWrite { s with pending := p } w = { handlerWrite s w with pending := p } := by
  cases w <;> simp only [handlerWrite, guardedWrite] <;> first
    | rfl
    | (generalize byteOfInt _ = o; cases o <;> rfl)
    | (generalize regOfInt _ = o; cases o <;> rfl)
    | (generalize bitOfInt _ = o; cases o <;> rfl)

theorem handlerWrites_pending (ws : List GuardedWrite) (s : State) (p : Option Pending) :
    ws.foldl handlerWrite { s with pending := p } = { ws.foldl handlerWrite s with pending := p } := by
  induction ws generalizing s with
  | nil => rfl
  | cons w ws ih => rw [List.foldl_cons, handlerWrite_pending, ih, List.foldl_cons]

/-- A relation that holds along each of the six guarded writes and composes holds along any list of a handler's
accesses: the one induction behind every claim about handlers. -/
theorem handlerWrites_induction {R : State → State → Prop} (refl : ∀ s, R s s)
    (trans : ∀ s t u, R s t → R t u → R s u) (one : ∀ s w, R s (handlerWrite s w))
    (ws : List GuardedWrite) (s : State) : R s (ws.foldl handlerWrite s) := by
  induction ws generalizing s with
  | nil => exact refl s
  | cons w ws ih => exact trans _ _ _ (one s w) (ih _)

/-- A handler's access leaves `halted`, `interrupted`, the table, the pending work and the ticket alone
(60_exceptions R167, D17). -/
theorem handlerWrite_status (s : State) (w : GuardedWrite) : SameStatus s (handlerWrite s w) := by
  rcases handlerWrite_cases s w with h | ⟨_, _, h⟩ | ⟨_, _, h⟩ | ⟨_, h⟩ | ⟨_, h⟩ | ⟨_, h⟩ | ⟨_, h⟩ <;>
    rw [h] <;> exact ⟨rfl, rfl, rfl, rfl, rfl⟩

theorem handlerWrites_status (ws : List GuardedWrite) (s : State) : SameStatus s (ws.foldl handlerWrite s) := by
  apply handlerWrites_induction
  · exact fun s => ⟨rfl, rfl, rfl, rfl, rfl⟩
  · rintro s t u ⟨a, b, c, d, e⟩ ⟨a', b', c', d', e'⟩
    exact ⟨a'.trans a, b'.trans b, c'.trans c, d'.trans d, e'.trans e⟩
  · exact handlerWrite_status

end Sys2Proof.Machine
end

