-- ==== Sys2Proof/Certificates/Slice0/Obligations.lean ====
section
/-!
DEFINITION. The statements for the provers, each from the rules of spec/ its docstring names.
-/

open Sys2Proof Sys2Proof.Machine

/-! ## Encoding -/

/-- R60, R71, R74: decoding the canonical bytes of a well-formed instruction gives it back, whatever follows. -/
def Obligations.DecodeInvertsEncode : Prop :=
  ∀ (i : Instr) (rest : List Byte), i.wellFormed = true → decodeBytes (encode i ++ rest) = .ok (i, rest)

/-- R75, R68: every pair of bytes is the row of the opcode table whose match and mask it meets, with the fields
at the places of R61 and R62; bits the row does not name do not matter (the spec's decisions D11, D16 and C1;
log 14). -/
def Obligations.EveryBytePairIsItsTableRow : Prop :=
  ∀ b0 b1 : Byte,
    (b0 &&& 0xF0#8 = 0x00#8 → decode b0 b1 = .halt) ∧
    (b0 &&& 0xF0#8 = 0x10#8 → decode b0 b1 = .int b1) ∧
    (b0 &&& 0xF0#8 = 0x20#8 → ReadsRegMode .cmp b0 b1) ∧
    (b0 &&& 0xF0#8 = 0x30#8 → decode b0 b1 = .jmp b1) ∧
    (b0 &&& 0xF0#8 = 0x40#8 → ∃ src, decode b0 b1 = .call src ∧ ReadsOperand b0 b1 src) ∧
    (b0 &&& 0xF0#8 = 0x50#8 → decode b0 b1 = .ret) ∧
    (b0 &&& 0xF3#8 = 0x60#8 → decode b0 b1 = .jz b1) ∧
    (b0 &&& 0xF3#8 = 0x61#8 → decode b0 b1 = .jnz b1) ∧
    (b0 &&& 0xF3#8 = 0x62#8 → decode b0 b1 = .jc b1) ∧
    (b0 &&& 0xF3#8 = 0x63#8 → decode b0 b1 = .jnc b1) ∧
    (b0 &&& 0xF0#8 = 0x70#8 → ReadsRegMode .load b0 b1) ∧
    (b0 &&& 0xF3#8 = 0x82#8 → ∃ p, decode b0 b1 = .store p (.abs b1) ∧ regIndex p = b0.toNat / 4 % 4) ∧
    (b0 &&& 0xF3#8 = 0x83#8 → ∃ p r, decode b0 b1 = .store p (.idx r) ∧ regIndex p = b0.toNat / 4 % 4 ∧
      regIndex r = b1.toNat % 4) ∧
    (b0 &&& 0xF2#8 = 0x80#8 → decode b0 b1 = .storeInvalid b0) ∧
    (b0 &&& 0xF0#8 = 0x90#8 → ReadsRegMode .add b0 b1) ∧
    (b0 &&& 0xF0#8 = 0xA0#8 → ReadsRegMode .sub b0 b1) ∧
    (b0 &&& 0xF0#8 = 0xB0#8 → ReadsRegMode .and b0 b1) ∧
    (b0 &&& 0xF0#8 = 0xC0#8 → ReadsRegMode .or b0 b1) ∧
    (b0 &&& 0xF0#8 = 0xD0#8 → ReadsRegMode .xor b0 b1) ∧
    (b0 &&& 0xF7#8 = 0xE0#8 → ReadsSecondary .inc b0 b1) ∧
    (b0 &&& 0xF7#8 = 0xE1#8 → ReadsSecondary .dec b0 b1) ∧
    (b0 &&& 0xF7#8 = 0xE2#8 → ReadsSecondary .not b0 b1) ∧
    (b0 &&& 0xF7#8 = 0xE3#8 → ReadsSecondary .asl b0 b1) ∧
    (b0 &&& 0xF7#8 = 0xE4#8 → ReadsSecondary .asr b0 b1) ∧
    (b0 &&& 0xF7#8 = 0xE5#8 → decode b0 b1 = .unaryReserved5 b0) ∧
    (b0 &&& 0xF6#8 = 0xE6#8 → decode b0 b1 = .unaryReserved67 b0) ∧
    (b0 &&& 0xF1#8 = 0xF0#8 → ReadsPrimary .push b0 b1) ∧
    (b0 &&& 0xF1#8 = 0xF1#8 → ReadsPrimary .pop b0 b1)

/-- R70, R71: the decoder answers only well-formed instructions, for every pair of bytes. -/
def Obligations.DecodedInstructionsAreWellFormed : Prop :=
  ∀ b0 b1 : Byte, (decode b0 b1).wellFormed = true

/-- R74, R61, R62: words written out from the spec's examples decode to the instructions they stand for. In the word
EC 03 bit 3 of b0 is set, which no rule reads: that form is only inferred (the spec's decision D11; log 14). -/
def Obligations.ExampleWordsDecode : Prop :=
  decode 0x21#8 0x2A#8 = .cmp .r0 (.const 0x2A#8) ∧
  decode 0x31#8 0x2A#8 = .jmp 0x2A#8 ∧
  decode 0x41#8 0x2A#8 = .call (.const 0x2A#8) ∧
  decode 0x8F#8 0x01#8 = .store .r3 (.idx .r1) ∧
  decode 0xA5#8 0x20#8 = .sub .r1 (.const 0x20#8) ∧
  decode 0xEC#8 0x03#8 = .asr .r3 ∧
  decode 0xF5#8 0x01#8 = .pop .r1

/-! ## The clamp and the guarded writes -/

/-- R10: the clamp keeps the raw result modulo 256, and carries exactly when it was below 0 or above 255. -/
def Obligations.ClampWrapsAndCarriesOutside0To255 : Prop :=
  ∀ r : Int, ((clampValue r).toNat : Int) = r % 256 ∧ (clampCarry r = true ↔ r < 0 ∨ 255 < r)

/-- R13, R28: a register write stores the clamped value, rewrites C, and emits three events; the order of the
three is the spec's decision D12, their payloads D13 (log 9). -/
def Obligations.RegisterWriteStoresAndRewritesCarry : Prop :=
  ∀ (i : Reg) (v : Int) (s : State),
    readRegister i (writeRegister i v s) = clampValue v ∧
    (writeRegister i v s).carry = clampCarry v ∧
    SameRegistersBut i s (writeRegister i v s) ∧ SameMemory s (writeRegister i v s) ∧
    (writeRegister i v s).zero = s.zero ∧ (writeRegister i v s).ip = s.ip ∧ (writeRegister i v s).sp = s.sp ∧
    SameStatus s (writeRegister i v s) ∧
    (writeRegister i v s).events = s.events ++
      [.carryFlagChanged (clampCarry v), .registerChanged i (clampValue v), .registerChangedAt i (clampValue v)]

/-- R42, R41: a memory write stores the clamped value in its one cell, leaves C and everything else alone, and
emits two events (payloads: the spec's decision D13; log 9). -/
def Obligations.MemoryWriteStoresOneCell : Prop :=
  ∀ (a : Byte) (v : Int) (s : State),
    readMemory a (writeMemory a v s) = clampValue v ∧
    SameMemoryBut a s (writeMemory a v s) ∧ SameRegisters s (writeMemory a v s) ∧
    SameFlags s (writeMemory a v s) ∧ (writeMemory a v s).ip = s.ip ∧ (writeMemory a v s).sp = s.sp ∧
    SameStatus s (writeMemory a v s) ∧
    (writeMemory a v s).events = s.events ++ [.memoryChanged a (clampValue v), .memoryChangedAt a (clampValue v)]

/-- R15, R18, R20: the guarded writes of IP, SP, Z and C store the clamped value or the bit, emit their one event
and change nothing else (payloads: the spec's decision D13; log 9). -/
def Obligations.PointerAndFlagWritesStoreAndNotify : Prop :=
  ∀ (v : Int) (b : Bool) (s : State),
    writeIp v s = { s with ip := clampValue v, events := s.events ++ [.ipChanged (clampValue v)] } ∧
    writeSp v s = { s with sp := clampValue v, events := s.events ++ [.spChanged (clampValue v)] } ∧
    writeZeroFlag b s = { s with zero := b, events := s.events ++ [.zeroFlagChanged b] } ∧
    writeCarryFlag b s = { s with carry := b, events := s.events ++ [.carryFlagChanged b] }

/-- R27, R167, R200: a guarded write from outside behaves exactly as when the engine does it where its arguments are
in range, and is refused exactly where an address is not 0 to 255, a register index not 0 to 3 or a flag value not 0
or 1 (the refusal is the spec's decision D23; log 10). A handler's access is that write, or no change where it is
refused; a host write is that write between steps, and refused in flight (D19, D20; log 11). -/
def Obligations.OutOfRangeArgumentsAreRefused : Prop :=
  (∀ (a v : Int) (s : State), guardedWrite (.memory a v) s = none ↔ a < 0 ∨ 255 < a) ∧
  (∀ (i v : Int) (s : State), guardedWrite (.register i v) s = none ↔ i < 0 ∨ 3 < i) ∧
  (∀ (b : Int) (s : State), guardedWrite (.zero b) s = none ↔ b < 0 ∨ 1 < b) ∧
  (∀ (b : Int) (s : State), guardedWrite (.carry b) s = none ↔ b < 0 ∨ 1 < b) ∧
  (∀ (a : Byte) (v : Int) (s : State), guardedWrite (.memory a.toNat v) s = some (writeMemory a v s)) ∧
  (∀ (v : Int) (s : State),
    guardedWrite (.register 0 v) s = some (writeRegister .r0 v s) ∧
    guardedWrite (.register 1 v) s = some (writeRegister .r1 v s) ∧
    guardedWrite (.register 2 v) s = some (writeRegister .r2 v s) ∧
    guardedWrite (.register 3 v) s = some (writeRegister .r3 v s) ∧
    guardedWrite (.ip v) s = some (writeIp v s) ∧ guardedWrite (.sp v) s = some (writeSp v s)) ∧
  (∀ s : State,
    guardedWrite (.zero 0) s = some (writeZeroFlag false s) ∧ guardedWrite (.zero 1) s = some (writeZeroFlag true s) ∧
    guardedWrite (.carry 0) s = some (writeCarryFlag false s) ∧
    guardedWrite (.carry 1) s = some (writeCarryFlag true s)) ∧
  (∀ (w : GuardedWrite) (s : State), guardedWrite w s = none → handlerWrite s w = s) ∧
  (∀ (w : GuardedWrite) (s t : State), guardedWrite w s = some t → handlerWrite s w = t) ∧
  (∀ (w : GuardedWrite) (s : State), s.interrupted = true → hostWrite w s = .refused .writeWhileInterrupted) ∧
  (∀ (w : GuardedWrite) (s : State), s.interrupted = false → guardedWrite w s = none →
    hostWrite w s = .refused .argumentOutOfRange) ∧
  (∀ (w : GuardedWrite) (s t : State), s.interrupted = false → guardedWrite w s = some t → hostWrite w s = .next t)

/-- R40, R41: memory is its 256 cells and nothing else: two canonical memories that read alike everywhere are
the same data. -/
def Obligations.CanonicalMemoriesThatReadAlikeAreEqual : Prop :=
  ∀ m n : Memory, Memory.wf m = true → Memory.wf n = true →
    (∀ a : Byte, readCell m a.toNat = readCell n a.toNat) → m = n

/-- R86, R87, R63: the operand value and the operand address by addressing mode. -/
def Obligations.OperandsResolveByMode : Prop :=
  ∀ (r : Reg) (b : Byte) (s : State),
    operandValue (.reg r) s = readRegister r s ∧
    operandValue (.const b) s = b ∧
    operandValue (.abs b) s = readMemory b s ∧
    operandValue (.idx r) s = readMemory (readRegister r s) s ∧
    operandAddress (.abs b) s = b ∧
    operandAddress (.idx r) s = readRegister r s

/-! ## The step -/

/-- R90, R83, R84: a running engine with no handler in flight and IP not 0xFF executes the instruction that the
bytes at IP and IP + 1 decode to; step adds nothing around exec, which carries the frame of R85 and R89. -/
def Obligations.StepRunsTheDecodedInstruction : Prop :=
  ∀ (s : State) (b0 b1 : Byte) (i : Instr), s.canFetch → readMemory s.ip s = b0 →
    readMemory (s.ip + 1#8) s = b1 → decodeBytes [b0, b1] = .ok (i, []) → step s = exec i s

/-- R81 (the stream's silence is the spec's decision D29): a step of a halted machine is a no-op. -/
def Obligations.HaltedStepChangesNothing : Prop :=
  ∀ s : State, s.halted = true → step s = .next s

/-- R91 (the spec's decision D1; log 8): a step that starts at IP = 0xFF is a Fault that records IP. -/
def Obligations.FetchAtTheTopOfMemoryFaults : Prop :=
  ∀ s : State, s.halted = false → s.interrupted = false → s.ip = 0xFF#8 →
    step s = .fault (.fetchOutOfRange 0xFF#8)

/-- R82, R167, R168, R169: while a handler is in flight the engine is held: the move is the handler's next guarded
write, or its completion, which clears `interrupted` and nothing else, or nothing for a handler that never
completes. That a step is the handler's move is the model's choice (log 6), the hold the spec's decision D5. -/
def Obligations.HandlerInFlightHoldsTheEngine : Prop :=
  ∀ s : State, s.halted = false → s.interrupted = true →
    (∀ (w : GuardedWrite) (ws : List GuardedWrite) (c : Bool),
      s.pending = some { writes := w :: ws, completes := c } →
        step s = .next { handlerWrite s w with pending := some { writes := ws, completes := c } }) ∧
    (s.pending = some { writes := [], completes := true } →
      step s = .next { s with interrupted := false, pending := none }) ∧
    (s.pending = some { writes := [], completes := false } → step s = .next s)

/-- R167, R168, R82: a handler that completes lifts the hold, after one move for each write it has left, made in
order, and one for its completion, which clears `interrupted` and nothing else of the machine (how its moves are
counted is the model's choice, log 6). -/
def Obligations.CompletingHandlerLiftsTheHold : Prop :=
  ∀ (s : State) (ws : List GuardedWrite), s.halted = false → s.interrupted = true →
    s.pending = some { writes := ws, completes := true } →
    ∃ t, runFor (ws.length + 1) s = .next t ∧ t.interrupted = false ∧ t.pending = none ∧
      t.halted = false ∧ t = { ws.foldl handlerWrite s with interrupted := false, pending := none }

/-- R169: a handler that never completes leaves `interrupted` true for ever, and no instruction is executed (the
steps are the model's moves, log 6). -/
def Obligations.HandlerThatNeverCompletesHoldsForEver : Prop :=
  ∀ (s : State) (ws : List GuardedWrite) (k : Nat), s.halted = false → s.interrupted = true →
    s.pending = some { writes := ws, completes := false } →
    ∃ t, runFor k s = .next t ∧ t.interrupted = true ∧ .stepCompleted ∉ t.events.drop s.events.length

/-- R161, R173 (the spec's decisions D1, D2, D3, D22; log 8): a step faults exactly when the engine would fetch at
IP = 0xFF, or fetches one of the reserved encodings, and the Fault records what the table of R161 says. -/
def Obligations.StepFaultsExactlyWhereTheSpecSays : Prop :=
  ∀ (s : State) (f : Fault), step s = .fault f ↔
    s.halted = false ∧ s.interrupted = false ∧
      ((s.ip = 0xFF#8 ∧ f = .fetchOutOfRange s.ip) ∨
       (s.ip ≠ 0xFF#8 ∧ readMemory s.ip s &&& 0xF2#8 = 0x80#8 ∧ f = .invalidStoreMode s.ip (readMemory s.ip s)) ∨
       (s.ip ≠ 0xFF#8 ∧ readMemory s.ip s &&& 0xF0#8 = 0xE0#8 ∧ 5 ≤ (readMemory s.ip s).toNat % 8 ∧
         f = .reservedUnarySubop s.ip (readMemory s.ip s)))

/-- R70, R160: no instruction and no state is refused: every step answers a next state or one of the Faults. -/
def Obligations.NoStepIsRefused : Prop :=
  ∀ (s : State) (r : Refusal), step s ≠ .refused r

/-- R90, R85, R89: an executed instruction emits `ip-changed` with the advanced IP first, then its body's events,
then `step-completed`, once (order: the spec's decisions D14, D22). -/
def Obligations.ExecutedInstructionsEmitInOrder : Prop :=
  ∀ (i : Instr) (s t : State), exec i s = .next t → ∃ body, EmitsInFrame body s t ∧ .stepCompleted ∉ body

/-! ## System instructions and the dispatcher -/

/-- R100: HALT sets `halted`, leaves IP at the address after it and everything else alone, and emits only the
frame's two events; every word with operation code 0 is HALT (unread bits: the spec's decision D11; log 14). -/
def Obligations.HaltStopsTheEngine : Prop :=
  ∀ s : State,
    (∀ b0 b1 : Byte, b0 &&& 0xF0#8 = 0x00#8 → decode b0 b1 = .halt) ∧
    ∃ t, exec .halt s = .next t ∧ t.halted = true ∧ t.ip = s.ip + 2#8 ∧ SameRegisters s t ∧ SameMemory s t ∧
      SameFlags s t ∧ t.sp = s.sp ∧ t.interrupted = s.interrupted ∧ t.intTable = s.intTable ∧
      t.pending = s.pending ∧ t.draws = s.draws ∧ EmitsInFrame [] s t

/-- R165, R101: INT to an empty entry of the table advances IP and changes nothing else. -/
def Obligations.IntWithoutHandlerIsIgnored : Prop :=
  ∀ (n : Byte) (s : State), lookupKey n.toNat s.intTable = none →
    ∃ t, exec (.int n) s = .next t ∧ t.ip = s.ip + 2#8 ∧ SameRegisters s t ∧ SameMemory s t ∧ SameFlags s t ∧
      t.sp = s.sp ∧ SameStatus s t ∧ EmitsInFrame [] s t

/-- R174, R101: INT to the random handler writes some byte to r0, clears C, and has completed when the step ends;
the effects are the spec's derivation from R13, and the byte is a free draw (log 4). -/
def Obligations.IntRunsTheRandomHandler : Prop :=
  ∀ (n : Byte) (s : State), lookupKey n.toNat s.intTable = some .random →
    ∃ t v, exec (.int n) s = .next t ∧ v = Config.randomDraw s.draws ∧ readRegister .r0 t = v ∧ t.carry = false ∧
      t.zero = s.zero ∧ SameRegistersBut .r0 s t ∧ SameMemory s t ∧ t.ip = s.ip + 2#8 ∧ t.sp = s.sp ∧
      t.interrupted = false ∧ t.pending = none ∧ t.halted = s.halted ∧ t.intTable = s.intTable ∧
      EmitsInFrame [.carryFlagChanged false, .registerChanged .r0 v, .registerChangedAt .r0 v] s t

/-- R166, R167, R168, R101: INT to an external handler sets `interrupted`, lets the handler make the writes of its
call in the state with IP advanced and nothing saved, and ends the step with `step-completed`; `interrupted` is
false again exactly when the handler completed within the call, and otherwise the handler's work is left
pending. What the handler does is the open parameter (log 2), when it moves later the model's choice (log 6). -/
def Obligations.IntInvokesTheHandler : Prop :=
  ∀ (n : Byte) (k : Nat) (s : State), lookupKey n.toNat s.intTable = some (.external k) →
    ∃ t, exec (.int n) s = .next t ∧
      let entry := enterHandler (advanceIp s)
      let r := Config.handlerResponse k (snapshotOf entry) s.draws
      let u := r.inCall.foldl handlerWrite entry
      entry.interrupted = true ∧ entry.ip = s.ip + 2#8 ∧ entry.sp = s.sp ∧ entry.mem = s.mem ∧ entry.regs = s.regs ∧
      entry.zero = s.zero ∧ entry.carry = s.carry ∧
      t.mem = u.mem ∧ t.regs = u.regs ∧ t.ip = u.ip ∧ t.sp = u.sp ∧ t.zero = u.zero ∧ t.carry = u.carry ∧
      t.halted = s.halted ∧ t.intTable = s.intTable ∧ t.events = u.events ++ [.stepCompleted] ∧
      match r.completion with
      | .withinCall => t.interrupted = false ∧ t.pending = none
      | .later ws => t.interrupted = true ∧ t.pending = some { writes := ws, completes := true }
      | .never ws => t.interrupted = true ∧ t.pending = some { writes := ws, completes := false }

/-! ## Compare and control transfer -/

/-- R110: CMP sets Z to the equality of register and value and writes nothing else (payloads of the events: the
spec's decision D13; log 9). -/
def Obligations.CompareSetsZeroToEquality : Prop :=
  ∀ (p : Reg) (src : Operand) (s : State),
    decode (opcodeByte 0x2 (regIndex p) (operandMode src)) (operandByte src) = .cmp p src ∧
    ∃ t, exec (.cmp p src) s = .next t ∧ (t.zero = true ↔ readRegister p s = operandValue src s) ∧
      t.carry = s.carry ∧ SameRegisters s t ∧ SameMemory s t ∧ t.ip = s.ip + 2#8 ∧ t.sp = s.sp ∧
      SameStatus s t ∧ EmitsInFrame [.zeroFlagChanged t.zero] s t

/-- R111: JMP sets IP to the raw operand byte, whatever the low four bits of b0 hold (the spec's decisions D11
and D16; log 14), and writes nothing else. -/
def Obligations.JumpSetsIpToTheOperandByte : Prop :=
  ∀ (a : Byte) (s : State),
    (∀ b0 : Byte, b0 &&& 0xF0#8 = 0x30#8 → decode b0 a = .jmp a) ∧
    ∃ t, exec (.jmp a) s = .next t ∧ t.ip = a ∧ SameRegisters s t ∧ SameMemory s t ∧ SameFlags s t ∧
      t.sp = s.sp ∧ SameStatus s t ∧ EmitsInFrame [.ipChanged a] s t

/-- R112: CALL stores the address of the next instruction at SP, lowers SP by 1 and sets IP to the value, which
was resolved before the store (the decode whatever b0[3:2]: the spec's decision D11, log 14; payloads of the events:
D13, log 9). -/
def Obligations.CallPushesTheReturnAddress : Prop :=
  ∀ (src : Operand) (s : State),
    (∀ b0 : Byte, b0 &&& 0xF3#8 = opcodeByte 0x4 0 (operandMode src) → decode b0 (operandByte src) = .call src) ∧
    ∃ t, exec (.call src) s = .next t ∧ readMemory s.sp t = s.ip + 2#8 ∧ SameMemoryBut s.sp s t ∧
      t.sp = s.sp - 1#8 ∧ t.ip = operandValue src s ∧ SameRegisters s t ∧ SameFlags s t ∧ SameStatus s t ∧
      EmitsInFrame [.memoryChanged s.sp (s.ip + 2#8), .memoryChangedAt s.sp (s.ip + 2#8), .spChanged t.sp,
        .ipChanged t.ip] s t

/-- R113: RET raises SP by 1 and sets IP to the byte at the new SP; the cell keeps its content (every word with
operation code 5 is RET: the spec's decision D11; log 14). -/
def Obligations.ReturnPopsIp : Prop :=
  ∀ s : State,
    (∀ b0 b1 : Byte, b0 &&& 0xF0#8 = 0x50#8 → decode b0 b1 = .ret) ∧
    ∃ t, exec .ret s = .next t ∧ t.sp = s.sp + 1#8 ∧ t.ip = readMemory (s.sp + 1#8) s ∧ SameMemory s t ∧
      SameRegisters s t ∧ SameFlags s t ∧ SameStatus s t ∧ EmitsInFrame [.spChanged t.sp, .ipChanged t.ip] s t

/-- R114 to R117: each conditional jump is taken to the raw operand byte exactly when its flag has its value, else
IP keeps the advanced value and nothing more is written or emitted; `b0[3:2]` is not read (the
spec's decision D11, log 14; payloads of the events: D13, log 9). -/
def Obligations.ConditionalJumpsTestOneFlag : Prop :=
  ∀ (a : Byte) (s : State) (i : Instr) (code : Byte) (taken : Prop),
    ((i = .jz a ∧ code = 0x60#8 ∧ taken = (s.zero = true)) ∨ (i = .jnz a ∧ code = 0x61#8 ∧ taken = (s.zero = false)) ∨
      (i = .jc a ∧ code = 0x62#8 ∧ taken = (s.carry = true)) ∨
      (i = .jnc a ∧ code = 0x63#8 ∧ taken = (s.carry = false))) →
    (∀ b0 : Byte, b0 &&& 0xF3#8 = code → decode b0 a = i) ∧
    ∃ t, exec i s = .next t ∧ SameRegisters s t ∧ SameMemory s t ∧ SameFlags s t ∧ t.sp = s.sp ∧ SameStatus s t ∧
      (taken → t.ip = a ∧ EmitsInFrame [.ipChanged a] s t) ∧
      (¬ taken → t.ip = s.ip + 2#8 ∧ EmitsInFrame [] s t)

/-! ## Loads and stores -/

/-- R120: LOAD copies the value into the primary register and clears C (the cleared carry is the spec's
derivation from R13 and R22). -/
def Obligations.LoadCopiesTheValueAndClearsCarry : Prop :=
  ∀ (p : Reg) (src : Operand) (s : State),
    decode (opcodeByte 0x7 (regIndex p) (operandMode src)) (operandByte src) = .load p src ∧
    ∃ t, exec (.load p src) s = .next t ∧ readRegister p t = operandValue src s ∧ t.carry = false ∧
      RegisterFrame p s t

/-- R121: STORE writes the primary register to the cell at the operand address and nothing else (payloads of the
events: the spec's decision D13; log 9). -/
def Obligations.StoreWritesOneCell : Prop :=
  ∀ (p : Reg) (dst : Dest) (s : State),
    decode (opcodeByte 0x8 (regIndex p) (destMode dst)) (destByte dst) = .store p dst ∧
    ∃ t, exec (.store p dst) s = .next t ∧ readMemory (operandAddress dst s) t = readRegister p s ∧
      SameMemoryBut (operandAddress dst s) s t ∧ SameRegisters s t ∧ SameFlags s t ∧ t.ip = s.ip + 2#8 ∧
      t.sp = s.sp ∧ SameStatus s t ∧
      EmitsInFrame [.memoryChanged (operandAddress dst s) (readRegister p s),
        .memoryChangedAt (operandAddress dst s) (readRegister p s)] s t

/-- R122 (the spec's decision D2; log 8): STORE with mode 0 or 1 is a Fault that records IP and b0. -/
def Obligations.StoreInInvalidModeFaults : Prop :=
  ∀ (b0 : Byte) (s : State), exec (.storeInvalid b0) s = .fault (.invalidStoreMode s.ip b0)

/-- R53 (derived there from R40, R41, R83): a store into the bytes of the next instruction is what the next step
fetches. -/
def Obligations.StoreIsSeenByTheNextFetch : Prop :=
  ∀ (p : Reg) (dst : Dest) (s t : State), exec (.store p dst) s = .next t →
    (operandAddress dst s = s.ip + 2#8 → (fetchBytes t).1 = readRegister p s) ∧
    (operandAddress dst s = s.ip + 3#8 → (fetchBytes t).2 = readRegister p s)

/-! ## Arithmetic and logic -/

/-- R130: ADD stores the sum modulo 256 and sets C exactly when the sum is 256 or more; Z is unchanged. -/
def Obligations.AddStoresTheSumAndCarriesFrom256 : Prop :=
  ∀ (p : Reg) (src : Operand) (s : State),
    decode (opcodeByte 0x9 (regIndex p) (operandMode src)) (operandByte src) = .add p src ∧
    ∃ t, exec (.add p src) s = .next t ∧
      (readRegister p t).toNat = ((readRegister p s).toNat + (operandValue src s).toNat) % 256 ∧
      (t.carry = true ↔ 256 ≤ (readRegister p s).toNat + (operandValue src s).toNat) ∧ RegisterFrame p s t

/-- R131: SUB stores the difference modulo 256 and sets C exactly when the register was below the value; Z is
unchanged. -/
def Obligations.SubStoresTheDifferenceAndCarriesOnBorrow : Prop :=
  ∀ (p : Reg) (src : Operand) (s : State),
    decode (opcodeByte 0xA (regIndex p) (operandMode src)) (operandByte src) = .sub p src ∧
    ∃ t, exec (.sub p src) s = .next t ∧
      ((readRegister p t).toNat : Int) = ((readRegister p s).toNat - (operandValue src s).toNat : Int) % 256 ∧
      (t.carry = true ↔ (readRegister p s).toNat < (operandValue src s).toNat) ∧ RegisterFrame p s t

/-- R132, R133, R134: AND, OR and XOR combine each bit of register and value and clear C (the cleared carry is
the spec's derivation from R22); Z is unchanged. -/
def Obligations.BitwiseOperationsWorkBitByBit : Prop :=
  ∀ (p : Reg) (src : Operand) (s : State) (i : Instr) (op : Nat) (f : Bool → Bool → Bool),
    ((i = .and p src ∧ op = 0xB ∧ f = (· && ·)) ∨ (i = .or p src ∧ op = 0xC ∧ f = (· || ·)) ∨
      (i = .xor p src ∧ op = 0xD ∧ f = xor)) →
    decode (opcodeByte op (regIndex p) (operandMode src)) (operandByte src) = i ∧
    ∃ t, exec i s = .next t ∧
      (∀ k < 8, (readRegister p t).getLsbD k =
        f ((readRegister p s).getLsbD k) ((operandValue src s).getLsbD k)) ∧
      t.carry = false ∧ RegisterFrame p s t

/-- R140, R141: INC and DEC add and subtract 1 modulo 256; C reports the wrap, Z is unchanged. -/
def Obligations.IncAndDecWrapWithCarry : Prop :=
  ∀ (r : Reg) (s : State),
    decode 0xE0#8 (regByte r) = .inc r ∧ decode 0xE1#8 (regByte r) = .dec r ∧
    (∃ t, exec (.inc r) s = .next t ∧ (readRegister r t).toNat = ((readRegister r s).toNat + 1) % 256 ∧
      (t.carry = true ↔ readRegister r s = 0xFF#8) ∧ RegisterFrame r s t) ∧
    (∃ t, exec (.dec r) s = .next t ∧ (readRegister r t).toNat = ((readRegister r s).toNat + 255) % 256 ∧
      (t.carry = true ↔ readRegister r s = 0x00#8) ∧ RegisterFrame r s t)

/-- R142 (the spec's decision D4; log 5): NOT inverts every bit, so that the value becomes 255 minus it; C becomes
the open parameter NOT_CARRY; Z is unchanged. -/
def Obligations.NotInvertsEveryBit : Prop :=
  ∀ (r : Reg) (s : State),
    decode 0xE2#8 (regByte r) = .not r ∧
    ∃ t, exec (.not r) s = .next t ∧ (readRegister r t).toNat = 255 - (readRegister r s).toNat ∧
      (∀ k < 8, (readRegister r t).getLsbD k = !(readRegister r s).getLsbD k) ∧
      t.carry = Config.notCarry ∧ RegisterFrame r s t

/-- R143: ASL doubles the register modulo 256 and puts the bit shifted out into C; Z is unchanged. -/
def Obligations.ShiftLeftDoubles : Prop :=
  ∀ (r : Reg) (s : State),
    decode 0xE3#8 (regByte r) = .asl r ∧
    ∃ t, exec (.asl r) s = .next t ∧ (readRegister r t).toNat = 2 * (readRegister r s).toNat % 256 ∧
      (t.carry = true ↔ 0x80 ≤ (readRegister r s).toNat) ∧ RegisterFrame r s t

/-- R144: ASR halves the register, rounding down, with no sign extension, and clears C (the spec's derivation from
R10); Z is unchanged. -/
def Obligations.ShiftRightHalvesUnsigned : Prop :=
  ∀ (r : Reg) (s : State),
    decode 0xE4#8 (regByte r) = .asr r ∧
    ∃ t, exec (.asr r) s = .next t ∧ (readRegister r t).toNat = (readRegister r s).toNat / 2 ∧
      t.carry = false ∧ RegisterFrame r s t

/-- R145 (the spec's decision D3; log 8): UNARY with sub-operation 5, 6 or 7 is a Fault that records IP and b0. -/
def Obligations.ReservedUnaryFaults : Prop :=
  ∀ (b0 : Byte) (s : State),
    exec (.unaryReserved5 b0) s = .fault (.reservedUnarySubop s.ip b0) ∧
    exec (.unaryReserved67 b0) s = .fault (.reservedUnarySubop s.ip b0)

/-- R146, R28 and the events of 43, 44, 45 and 46: every instruction that writes a register emits, between the
frame's events, the three events of the register write (their order is the spec's decision D12; log 9); POP
emits `sp-changed` before them. -/
def Obligations.RegisterInstructionsEmitThreeEvents : Prop :=
  ∀ (i : Instr) (r : Reg) (s t : State), writtenRegister i = some r → exec i s = .next t →
    EmitsInFrame ((if i = .pop r then [.spChanged t.sp] else []) ++
      [.carryFlagChanged t.carry, .registerChanged r (readRegister r t), .registerChangedAt r (readRegister r t)]) s t

/-- R130: adding a register to itself gives the register and the carry of ASL. -/
def Obligations.AddToSelfIsShiftLeft : Prop :=
  ∀ (r : Reg) (s t u : State), exec (.add r (.reg r)) s = .next t → exec (.asl r) s = .next u →
    t = u

/-! ## The stack -/

/-- R150: PUSH stores the primary register at SP and lowers SP by 1, modulo 256; nothing else is written; `b0[1]`
and `b1` are not read (the primary field and the unread bits: the spec's resolution C1 and decision D11, log 14;
payloads of the events: D13, log 9). -/
def Obligations.PushStoresThenLowersSp : Prop :=
  ∀ (p : Reg) (s : State),
    (∀ b0 b1 : Byte, b0 &&& 0xFD#8 = opcodeByte 0xF (regIndex p) 0 → decode b0 b1 = .push p) ∧
    ∃ t, exec (.push p) s = .next t ∧ readMemory s.sp t = readRegister p s ∧ SameMemoryBut s.sp s t ∧
      t.sp = s.sp - 1#8 ∧ SameRegisters s t ∧ SameFlags s t ∧ t.ip = s.ip + 2#8 ∧ SameStatus s t ∧
      EmitsInFrame [.memoryChanged s.sp (readRegister p s), .memoryChangedAt s.sp (readRegister p s),
        .spChanged t.sp] s t

/-- R151: POP raises SP by 1, modulo 256, loads the primary register from the cell at the new SP and clears C (the
cleared carry is the spec's derivation); the cell keeps its content. The decode from the primary field, whatever
`b0[1]` and `b1`, rests on the spec's resolution C1 and decision D11 (log 14). -/
def Obligations.PopRaisesSpThenLoads : Prop :=
  ∀ (p : Reg) (s : State),
    (∀ b0 b1 : Byte, b0 &&& 0xFD#8 = opcodeByte 0xF (regIndex p) 1 → decode b0 b1 = .pop p) ∧
    ∃ t, exec (.pop p) s = .next t ∧ t.sp = s.sp + 1#8 ∧ readRegister p t = readMemory (s.sp + 1#8) s ∧
      t.carry = false ∧ t.zero = s.zero ∧ SameRegistersBut p s t ∧ SameMemory s t ∧ t.ip = s.ip + 2#8 ∧
      SameStatus s t

/-- R151, R152: PUSH then POP of the same register restores its value and SP. -/
def Obligations.PushThenPopRestores : Prop :=
  ∀ (p : Reg) (s t u : State), exec (.push p) s = .next t → exec (.pop p) t = .next u →
    SameRegisters s u ∧ u.sp = s.sp ∧ u.zero = s.zero ∧ u.carry = false

/-- R112, R113: CALL then RET comes back to the instruction after the CALL with SP, registers and flags as they
were. -/
def Obligations.CallThenReturnComesBack : Prop :=
  ∀ (src : Operand) (s t u : State), exec (.call src) s = .next t → exec .ret t = .next u →
    u.ip = s.ip + 2#8 ∧ u.sp = s.sp ∧ SameRegisters s u ∧ SameFlags s u ∧ SameMemoryBut s.sp s u

/-! ## The whole machine -/

/-- R12, R44, R14, R16, R23: any instruction but INT writes at most the one cell, the one register and the
pointers its rule names; only HALT writes `halted`, and no instruction but INT touches the rest. -/
def Obligations.EachInstructionWritesOnlyWhatItsRuleNames : Prop :=
  ∀ (i : Instr) (s t : State), exec i s = .next t → (∀ n, i ≠ .int n) →
    (∀ a, storedAddress i s ≠ some a → readMemory a t = readMemory a s) ∧
    (∀ r, writtenRegister i ≠ some r → readRegister r t = readRegister r s) ∧
    (bodyWritesIp i = false → t.ip = s.ip + 2#8) ∧ (bodyWritesSp i = false → t.sp = s.sp) ∧
    (i ≠ .halt → t.halted = s.halted) ∧
    t.interrupted = s.interrupted ∧ t.intTable = s.intTable ∧ t.pending = s.pending ∧ t.draws = s.draws

/-- R21: of the instructions only CMP writes Z; a handler, which INT may run, is the one other writer in a step
(C3 is the spec's resolution). -/
def Obligations.OnlyCompareWritesZero : Prop :=
  ∀ (i : Instr) (s t : State), exec i s = .next t → (∀ p src, i ≠ .cmp p src) → (∀ n, i ≠ .int n) → t.zero = s.zero

/-- R22: of the instructions only those that write a register write C; a handler, which INT may run, is the one
other writer in a step (C4 is the spec's resolution). -/
def Obligations.OnlyRegisterWritersWriteCarry : Prop :=
  ∀ (i : Instr) (s t : State), exec i s = .next t → writtenRegister i = none → (∀ n, i ≠ .int n) → t.carry = s.carry

/-- R23: a step halts the machine only by executing HALT, and no step leaves the Halted state. -/
def Obligations.OnlyHaltEntersAndNothingLeavesHalted : Prop :=
  ∀ s t : State, step s = .next t →
    (s.halted = true → t.halted = true) ∧
    (s.halted = false → t.halted = true → s.canFetch ∧ readMemory s.ip s &&& 0xF0#8 = 0x00#8)

/-- R25, R164: no step writes the Interrupt Table: it is a constant of the run. -/
def Obligations.NoStepWritesTheInterruptTable : Prop :=
  ∀ s t : State, step s = .next t → t.intTable = s.intTable

/-- R41, R163, R166, R168, R100: the invariant of `State.inv` is kept by every step: memory and table keep their
canonical form, a handler's work is recorded exactly while `interrupted` holds, and a halted machine has no
handler in flight (how the handler's work is recorded is the model's choice, log 6). -/
def Obligations.EveryStepKeepsTheInvariant : Prop :=
  ∀ s t : State, s.inv → step s = .next t → t.inv

/-- The invariant holds at construction (R29), where the run has not ended (R92, the spec's decision D27), and every
operation of the host that answers a state keeps it (R190, R192, R164, R200, R195), so that a run with handlers
registered and a program loaded starts from it. The record of a handler's work is the model's (log 6), the canonical
form too (log 1, log 7). -/
def Obligations.ResetMeetsTheInvariant : Prop :=
  State.reset.inv ∧ State.reset.ended = false ∧
  (∀ s t : State, s.inv → hostReset s = .next t → t.inv) ∧
  (∀ (phase : Phase) (id : Int) (h : Handler) (s t : State), s.inv → hostRegister phase id h s = .next t → t.inv) ∧
  (∀ (w : GuardedWrite) (s t : State), s.inv → hostWrite w s = .next t → t.inv) ∧
  (∀ (image : List (Byte × Byte)) (s t : State), s.inv → hostLoad image s = .next t → t.inv)

/-- R28, R27: no write is observable without its notification: an observer that starts from the state before a
step and takes the step's events at their word ends with the memory, registers, pointers and flags of the state
after it (payloads: the spec's decision D13; log 9). -/
def Obligations.EventsAnnounceEveryChange : Prop :=
  ∀ s t : State, step s = .next t →
    ∃ new, t.events = s.events ++ new ∧ new.foldl Mirror.observe s.mirror = t.mirror

/-- R28, R179: nothing in the machine reads the notification stream: a state with another stream steps to the same
state, but for that stream, and emits the same events. -/
def Obligations.TheStreamNeverInfluencesTheMachine : Prop :=
  ∀ (s t : State) (new other : List Event), step s = .next t → t.events = s.events ++ new →
    step { s with events := other } = .next { t with events := other ++ new }

/-! ## Reset, boot and the host -/

/-- R29: the state after construction (`interrupted`, the empty table and the silent stream are the spec's
decisions D6, D7, D9). -/
def Obligations.ConstructionStateIsTheSpecs : Prop :=
  (∀ a, readMemory a State.reset = 0x00#8) ∧ (∀ r, readRegister r State.reset = 0x00#8) ∧
  State.reset.ip = 0x00#8 ∧ State.reset.sp = 0xBF#8 ∧ State.reset.zero = false ∧ State.reset.carry = false ∧
  State.reset.halted = false ∧ State.reset.interrupted = false ∧ State.reset.intTable = [] ∧
  State.reset.pending = none ∧ State.reset.events = []

/-- R190 to R194: with no handler in flight a reset gives every field its construction value, twice the same as
once, and keeps the Interrupt Table and the stream; with one in flight there is no reset (the spec's decisions
D7, D8, D9; log 11). -/
def Obligations.HostResetReinitializes : Prop :=
  ∀ s : State,
    (s.interrupted = true → hostReset s = .refused .resetWhileInterrupted) ∧
    (s.interrupted = false → ∃ t, hostReset s = .next t ∧ hostReset t = .next t ∧
      (∀ a, readMemory a t = 0x00#8) ∧ (∀ r, readRegister r t = 0x00#8) ∧ t.ip = 0x00#8 ∧ t.sp = 0xBF#8 ∧
      t.zero = false ∧ t.carry = false ∧ t.halted = false ∧ t.interrupted = false ∧ t.pending = none ∧
      t.intTable = s.intTable ∧ t.events = s.events)

/-- R164 (no registration during a run: the spec's decision D18; log 11): registering binds the id to the handler,
the last writer winning, and touches no other entry and nothing else. -/
def Obligations.LastRegistrationWins : Prop :=
  ∀ (id : Byte) (h : Handler) (s : State),
    hostRegister .running id.toNat h s = .refused .registerDuringRun ∧
    ∃ t, hostRegister .setup id.toNat h s = .next t ∧ lookupKey id.toNat t.intTable = some h ∧
      (∀ j : Byte, j ≠ id → lookupKey j.toNat t.intTable = lookupKey j.toNat s.intTable) ∧
      t = { s with intTable := t.intTable }

/-- R195, R196, R200: loading an image into any machine with no handler in flight leaves in each cell the last byte
the image gives it, what the cell held where it gives none, and everything but memory and the stream as it was: C is
not disturbed, and each byte emits the two events of its write. In flight the load is refused. (R196 is the spec's
derivation; loading by guarded writes its decision D19, log 12; the payloads D13, log 9; the refusal D20, log 11.) -/
def Obligations.LoaderWritesMemoryOnly : Prop :=
  ∀ (image : List (Byte × Byte)) (s : State),
    (s.interrupted = true → hostLoad image s = .refused .writeWhileInterrupted) ∧
    (s.interrupted = false → ∃ t, hostLoad image s = .next t ∧
      (∀ a, readMemory a t =
        (((image.filter fun c => c.1 == a).getLast?).map fun c => c.2).getD (readMemory a s)) ∧
      SameRegisters s t ∧ SameFlags s t ∧ t.ip = s.ip ∧ t.sp = s.sp ∧ SameStatus s t ∧
      t.events = s.events ++ image.flatMap fun c => [.memoryChanged c.1 c.2, .memoryChangedAt c.1 c.2])
end

