-- ==== Sys2Proof/Laws/Decode.lean ====
section
/-!
SUPPORT. What the field readers of the decoder give on a byte, in numbers, and on an opcode byte the encoder
builds (spec/30_encoding.md R61, R62).
-/

namespace Sys2Proof

theorem regIndex_lt (r : Reg) : regIndex r < 4 := by cases r <;> decide

theorem regIndex_regOfBits (b : BitVec 2) : regIndex (regOfBits b) = b.toNat := by
  revert b
  decide

theorem regOfBits_regIndex (r : Reg) : regOfBits (BitVec.ofNat 2 (regIndex r)) = r := by cases r <;> rfl

/-- The fields of b0 and of b1 as parts of their numbers. -/
theorem opField_eq (b : Byte) : opField b = b.toNat / 16 := by
  have := b.isLt
  simp only [opField, BitVec.extractLsb'_toNat, Nat.shiftRight_eq_div_pow]
  omega

theorem modeField_eq (b : Byte) : modeField b = b.toNat % 4 := by
  simp [modeField, BitVec.extractLsb'_toNat]

theorem subField_eq (b : Byte) : subField b = b.toNat % 8 := by
  simp [subField, BitVec.extractLsb'_toNat]

theorem dirField_eq (b : Byte) : dirField b = b.toNat % 2 := by
  simp [dirField, BitVec.extractLsb'_toNat]

theorem regIndex_primaryField (b : Byte) : regIndex (primaryField b) = b.toNat / 4 % 4 := by
  simp [primaryField, regIndex_regOfBits, BitVec.extractLsb'_toNat, Nat.shiftRight_eq_div_pow]

theorem regIndex_secondaryField (b : Byte) : regIndex (secondaryField b) = b.toNat % 4 := by
  simp [secondaryField, regIndex_regOfBits, BitVec.extractLsb'_toNat]

/-- Registers are told apart by their index. -/
theorem regIndex_inj {r q : Reg} (h : regIndex r = regIndex q) : r = q := by
  cases r <;> cases q <;> first | rfl | exact absurd h (by decide)

/-- An opcode byte's number, where its fields are in range. -/
theorem opcodeByte_toNat {op p m : Nat} (ho : op < 16) (hp : p < 4) (hm : m < 4) :
    (opcodeByte op p m).toNat = 16 * op + 4 * p + m := by
  simp only [opcodeByte, BitVec.toNat_ofNat]
  omega

theorem opField_opcodeByte {op p m : Nat} (ho : op < 16) (hp : p < 4) (hm : m < 4) :
    opField (opcodeByte op p m) = op := by
  rw [opField_eq, opcodeByte_toNat ho hp hm]
  omega

theorem modeField_opcodeByte {op p m : Nat} (ho : op < 16) (hp : p < 4) (hm : m < 4) :
    modeField (opcodeByte op p m) = m := by
  rw [modeField_eq, opcodeByte_toNat ho hp hm]
  omega

theorem primaryField_opcodeByte {op m : Nat} (r : Reg) (ho : op < 16) (hm : m < 4) :
    primaryField (opcodeByte op (regIndex r) m) = r := by
  apply regIndex_inj
  have hr := regIndex_lt r
  rw [regIndex_primaryField, opcodeByte_toNat ho hr hm]
  omega

@[simp] theorem secondaryField_regByte (r : Reg) : secondaryField (regByte r) = r := by cases r <;> rfl

theorem operandMode_lt (src : Operand) : operandMode src < 4 := by cases src <;> simp [operandMode]

/-- An operand form is read back from its mode and its byte. -/
@[simp] theorem operandOf_operandByte (src : Operand) : operandOf (operandMode src) (operandByte src) = src := by
  cases src <;> simp [operandMode, operandByte, operandOf]

end Sys2Proof
end

