-- ==== Sys2Proof/Laws/Host.lean ====
section
/-!
SUPPORT. What each operation of the host can answer, said once, and what is common to every load of an image
(spec/70_reset_and_hazards.md R190 to R196, R200; spec/60_exceptions.md R164).
-/

namespace Sys2Proof.Machine

/-- A reset that is not refused: construction values, the table, the stream and the ticket kept. -/
theorem hostReset_next {s t : State} (h : hostReset s = .next t) :
    s.interrupted = false ∧
      t = { State.reset with intTable := s.intTable, draws := s.draws, events := s.events } := by
  unfold hostReset at h
  split at h
  · cases h
  · next hi => injection h with h; exact ⟨by simpa using hi, h.symm⟩

/-- A registration that is not refused: at setup, and one entry of the table. -/
theorem hostRegister_next {phase : Phase} {id : Int} {k : Handler} {s t : State}
    (h : hostRegister phase id k s = .next t) :
    phase = .setup ∧ ∃ b, byteOfInt id = some b ∧ t = { s with intTable := insertKey b.toNat k s.intTable } := by
  cases phase with
  | running => cases h
  | setup =>
    simp only [hostRegister] at h
    cases hb : byteOfInt id with
    | none => rw [hb] at h; cases h
    | some b =>
      rw [hb] at h
      injection h with h
      exact ⟨rfl, b, rfl, h.symm⟩

/-- A host write that is not refused is the guarded write, with no handler in flight. -/
theorem hostWrite_next {w : GuardedWrite} {s t : State} (h : hostWrite w s = .next t) :
    s.interrupted = false ∧ guardedWrite w s = some t := by
  unfold hostWrite at h
  split at h
  · cases h
  · next hi =>
    split at h
    · cases h
    · next hg => injection h with h; exact ⟨by simpa using hi, h ▸ hg⟩

/-- A load that is not refused is the image's writes, with no handler in flight. -/
theorem hostLoad_next {image : List (Byte × Byte)} {s t : State} (h : hostLoad image s = .next t) :
    s.interrupted = false ∧ t = loadImage image s := by
  unfold hostLoad at h
  split at h
  · cases h
  · next hi => injection h with h; exact ⟨by simpa using hi, h.symm⟩

@[simp] theorem loadImage_nil (s : State) : loadImage [] s = s := rfl

@[simp] theorem loadImage_cons (c : Byte × Byte) (image : List (Byte × Byte)) (s : State) :
    loadImage (c :: image) s = loadImage image (writeMemory c.1 (raw c.2) s) := rfl

/-- A relation that holds along each write of a byte and composes holds along any image. -/
theorem loadImage_induction {R : State → State → Prop} (refl : ∀ s, R s s)
    (trans : ∀ s t u, R s t → R t u → R s u) (one : ∀ s a v, R s (writeMemory a (raw v) s))
    (image : List (Byte × Byte)) (s : State) : R s (loadImage image s) := by
  induction image generalizing s with
  | nil => exact refl s
  | cons c image ih => exact trans _ _ _ (one s c.1 c.2) (ih _)

end Sys2Proof.Machine
end

