-- ==== Sys2Proof/Laws/PerInstr.lean ====
section
/-!
SUPPORT. Statements about every instruction as syntax, one lemma per constructor: every instruction is exactly
two bytes (spec/30_encoding.md R60).
-/

/-- The canonical encoding of an instruction is two bytes, and its decoding leaves what follows it (R60). -/
def Sys2Proof.Laws.TwoBytes.Statement (i : Sys2Proof.Instr) : Prop :=
  (Sys2Proof.encode i).length = 2 ∧
    ∀ rest, ∃ j, Sys2Proof.decodeBytes (Sys2Proof.encode i ++ rest) = .ok (j, rest)

theorem Sys2Proof.Laws.TwoBytes.halt :
    Sys2Proof.Laws.TwoBytes.Statement (.halt) :=
  ⟨rfl, fun _ => ⟨_, rfl⟩⟩

theorem Sys2Proof.Laws.TwoBytes.int (n : Sys2Proof.Byte) :
    Sys2Proof.Laws.TwoBytes.Statement (.int n) :=
  ⟨rfl, fun _ => ⟨_, rfl⟩⟩

theorem Sys2Proof.Laws.TwoBytes.cmp (p : Sys2Proof.Reg) (src : Sys2Proof.Operand) :
    Sys2Proof.Laws.TwoBytes.Statement (.cmp p src) :=
  ⟨rfl, fun _ => ⟨_, rfl⟩⟩

theorem Sys2Proof.Laws.TwoBytes.jmp (t : Sys2Proof.Byte) :
    Sys2Proof.Laws.TwoBytes.Statement (.jmp t) :=
  ⟨rfl, fun _ => ⟨_, rfl⟩⟩

theorem Sys2Proof.Laws.TwoBytes.call (src : Sys2Proof.Operand) :
    Sys2Proof.Laws.TwoBytes.Statement (.call src) :=
  ⟨rfl, fun _ => ⟨_, rfl⟩⟩

theorem Sys2Proof.Laws.TwoBytes.ret :
    Sys2Proof.Laws.TwoBytes.Statement (.ret) :=
  ⟨rfl, fun _ => ⟨_, rfl⟩⟩

theorem Sys2Proof.Laws.TwoBytes.jz (t : Sys2Proof.Byte) :
    Sys2Proof.Laws.TwoBytes.Statement (.jz t) :=
  ⟨rfl, fun _ => ⟨_, rfl⟩⟩

theorem Sys2Proof.Laws.TwoBytes.jnz (t : Sys2Proof.Byte) :
    Sys2Proof.Laws.TwoBytes.Statement (.jnz t) :=
  ⟨rfl, fun _ => ⟨_, rfl⟩⟩

theorem Sys2Proof.Laws.TwoBytes.jc (t : Sys2Proof.Byte) :
    Sys2Proof.Laws.TwoBytes.Statement (.jc t) :=
  ⟨rfl, fun _ => ⟨_, rfl⟩⟩

theorem Sys2Proof.Laws.TwoBytes.jnc (t : Sys2Proof.Byte) :
    Sys2Proof.Laws.TwoBytes.Statement (.jnc t) :=
  ⟨rfl, fun _ => ⟨_, rfl⟩⟩

theorem Sys2Proof.Laws.TwoBytes.load (p : Sys2Proof.Reg) (src : Sys2Proof.Operand) :
    Sys2Proof.Laws.TwoBytes.Statement (.load p src) :=
  ⟨rfl, fun _ => ⟨_, rfl⟩⟩

theorem Sys2Proof.Laws.TwoBytes.store (p : Sys2Proof.Reg) (dst : Sys2Proof.Dest) :
    Sys2Proof.Laws.TwoBytes.Statement (.store p dst) :=
  ⟨rfl, fun _ => ⟨_, rfl⟩⟩

theorem Sys2Proof.Laws.TwoBytes.storeInvalid (b : Sys2Proof.Byte) :
    Sys2Proof.Laws.TwoBytes.Statement (.storeInvalid b) :=
  ⟨rfl, fun _ => ⟨_, rfl⟩⟩

theorem Sys2Proof.Laws.TwoBytes.add (p : Sys2Proof.Reg) (src : Sys2Proof.Operand) :
    Sys2Proof.Laws.TwoBytes.Statement (.add p src) :=
  ⟨rfl, fun _ => ⟨_, rfl⟩⟩

theorem Sys2Proof.Laws.TwoBytes.sub (p : Sys2Proof.Reg) (src : Sys2Proof.Operand) :
    Sys2Proof.Laws.TwoBytes.Statement (.sub p src) :=
  ⟨rfl, fun _ => ⟨_, rfl⟩⟩

theorem Sys2Proof.Laws.TwoBytes.and (p : Sys2Proof.Reg) (src : Sys2Proof.Operand) :
    Sys2Proof.Laws.TwoBytes.Statement (.and p src) :=
  ⟨rfl, fun _ => ⟨_, rfl⟩⟩

theorem Sys2Proof.Laws.TwoBytes.or (p : Sys2Proof.Reg) (src : Sys2Proof.Operand) :
    Sys2Proof.Laws.TwoBytes.Statement (.or p src) :=
  ⟨rfl, fun _ => ⟨_, rfl⟩⟩

theorem Sys2Proof.Laws.TwoBytes.xor (p : Sys2Proof.Reg) (src : Sys2Proof.Operand) :
    Sys2Proof.Laws.TwoBytes.Statement (.xor p src) :=
  ⟨rfl, fun _ => ⟨_, rfl⟩⟩

theorem Sys2Proof.Laws.TwoBytes.inc (r : Sys2Proof.Reg) :
    Sys2Proof.Laws.TwoBytes.Statement (.inc r) :=
  ⟨rfl, fun _ => ⟨_, rfl⟩⟩

theorem Sys2Proof.Laws.TwoBytes.dec (r : Sys2Proof.Reg) :
    Sys2Proof.Laws.TwoBytes.Statement (.dec r) :=
  ⟨rfl, fun _ => ⟨_, rfl⟩⟩

theorem Sys2Proof.Laws.TwoBytes.not (r : Sys2Proof.Reg) :
    Sys2Proof.Laws.TwoBytes.Statement (.not r) :=
  ⟨rfl, fun _ => ⟨_, rfl⟩⟩

theorem Sys2Proof.Laws.TwoBytes.asl (r : Sys2Proof.Reg) :
    Sys2Proof.Laws.TwoBytes.Statement (.asl r) :=
  ⟨rfl, fun _ => ⟨_, rfl⟩⟩

theorem Sys2Proof.Laws.TwoBytes.asr (r : Sys2Proof.Reg) :
    Sys2Proof.Laws.TwoBytes.Statement (.asr r) :=
  ⟨rfl, fun _ => ⟨_, rfl⟩⟩

theorem Sys2Proof.Laws.TwoBytes.unaryReserved5 (b : Sys2Proof.Byte) :
    Sys2Proof.Laws.TwoBytes.Statement (.unaryReserved5 b) :=
  ⟨rfl, fun _ => ⟨_, rfl⟩⟩

theorem Sys2Proof.Laws.TwoBytes.unaryReserved67 (b : Sys2Proof.Byte) :
    Sys2Proof.Laws.TwoBytes.Statement (.unaryReserved67 b) :=
  ⟨rfl, fun _ => ⟨_, rfl⟩⟩

theorem Sys2Proof.Laws.TwoBytes.push (p : Sys2Proof.Reg) :
    Sys2Proof.Laws.TwoBytes.Statement (.push p) :=
  ⟨rfl, fun _ => ⟨_, rfl⟩⟩

theorem Sys2Proof.Laws.TwoBytes.pop (p : Sys2Proof.Reg) :
    Sys2Proof.Laws.TwoBytes.Statement (.pop p) :=
  ⟨rfl, fun _ => ⟨_, rfl⟩⟩
end

