-- ==== Sys2Proof/Tests/Slice0.lean ====
section
/-!
SUPPORT. The model's own tests: the well-formedness smoke, one word per row of the opcode table, small one-step
tests whose expected results are the vectors V-... of spec/95_test_vectors.md, and a witness for the hypotheses
of each statement.
-/

namespace Sys2Proof.Tests

open Sys2Proof Sys2Proof.Machine

/-! ## Helpers -/

/-- The reset state with these memory cells and registers. -/
def boot (m : Memory) (r0 r1 r2 r3 : Byte) : State :=
  { State.reset with mem := m, regs := { r0 := r0, r1 := r1, r2 := r2, r3 := r3 } }

/-- The state after a step, where there is one. -/
def next (o : Host.Outcome State Fault Refusal) : Option State :=
  match o with
  | .next t => some t
  | .fault _ => none
  | .refused _ => none

/-- The Fault of a step, where there is one. -/
def fault (o : Host.Outcome State Fault Refusal) : Option Fault :=
  match o with
  | .next _ => none
  | .fault f => some f
  | .refused _ => none

/-- The refusal of a host operation, where there is one. -/
def refusal (o : Host.Outcome State Fault Refusal) : Option Refusal :=
  match o with
  | .next _ => none
  | .fault _ => none
  | .refused r => some r

/-- IP, SP, Z and C. -/
def pointers (s : State) : Byte × Byte × Bool × Bool := (s.ip, s.sp, s.zero, s.carry)

/-- r0 to r3. -/
def registers (s : State) : List Byte := [s.regs.r0, s.regs.r1, s.regs.r2, s.regs.r3]

/-- The common start of V-LD: the instruction at 0x00, C = 1. -/
def loadStart (b0 b1 : Byte) : State :=
  { boot [(0x00, b0), (0x01, b1), (0x42, 0x77#8), (0x80, 0x99#8)] 0x00#8 0x42#8 0x80#8 0x03#8 with carry := true }

/-- The common start of V-ST: the instruction at 0x00, C = 1. -/
def storeStart (b0 b1 : Byte) : State :=
  { boot [(0x00, b0), (0x01, b1)] 0x11#8 0x42#8 0x80#8 0xC0#8 with carry := true }

/-- The form of V-ADD, V-SUB and V-LOG: r0 = a, constant b, C = 1 at the start. -/
def aluStart (b0 a b : Byte) : State :=
  { boot [(0x00, b0), (0x01, b)] a 0x00#8 0x00#8 0x00#8 with carry := true }

/-- The form of V-UN: r1 = v, bytes `b0 01`, C = 1 at the start. -/
def unaryStart (b0 v : Byte) : State :=
  { boot [(0x00, b0), (0x01, 0x01#8)] 0x00#8 v 0x00#8 0x00#8 with carry := true }

/-- r0 and C after one step. -/
def r0AndCarry (s : State) : Option (Byte × Bool) := (next (step s)).map fun t => (t.regs.r0, t.carry)

/-- r1 and C after one step. -/
def r1AndCarry (s : State) : Option (Byte × Bool) := (next (step s)).map fun t => (t.regs.r1, t.carry)

/-- A running machine with a handler in flight. -/
def held (p : Pending) : State := { State.reset with interrupted := true, pending := some p }

/-- A machine whose table holds this handler under id 0x05, with `INT 0x05` at 0x00 (V-INT). -/
def withHandler (h : Handler) : State :=
  { boot [(0x00, 0x10#8), (0x01, 0x05#8)] 0x12#8 0x00#8 0x00#8 0x00#8 with carry := true, intTable := [(5, h)] }

/-! ## Well-formedness: for each check a term that it refuses, and one that it accepts -/

/-- 0x82 is STORE with mode 2, an instruction (R69). -/
theorem test_wellFormed_storeInvalid :
    (Instr.storeInvalid 0x82#8).wellFormed = false ∧ (Instr.storeInvalid 0x8D#8).wellFormed = true := by decide

/-- 0xE4 is ASR and 0xE6 the other reserved row (R69). -/
theorem test_wellFormed_unaryReserved5 :
    (Instr.unaryReserved5 0xE4#8).wellFormed = false ∧ (Instr.unaryReserved5 0xE6#8).wellFormed = false ∧
    (Instr.unaryReserved5 0xED#8).wellFormed = true := by decide

/-- 0xE5 is the other reserved row and 0xF6 is PUSH (R69). -/
theorem test_wellFormed_unaryReserved67 :
    (Instr.unaryReserved67 0xE5#8).wellFormed = false ∧ (Instr.unaryReserved67 0xF6#8).wellFormed = false ∧
    (Instr.unaryReserved67 0xEF#8).wellFormed = true := by decide

/-! ## Decoding: words written out from the encodings of 30_encoding R61 to R69 and the vectors -/

/-- HALT (0000 ....), with every unread bit set as well (V-SYS-2). -/
theorem test_decode_halt : decode 0x00#8 0x00#8 = .halt ∧ decode 0x0F#8 0xFF#8 = .halt := by decide

/-- INT (0001 ....), unread bits set (V-INT-5). -/
theorem test_decode_int : decode 0x10#8 0x07#8 = .int 0x07#8 ∧ decode 0x1F#8 0x05#8 = .int 0x05#8 := by decide

/-- CMP (0010 pp mm): V-CMP-1, V-CMP-3, V-CMP-4, V-CMP-5. -/
theorem test_decode_cmp :
    decode 0x21#8 0x2A#8 = .cmp .r0 (.const 0x2A#8) ∧ decode 0x24#8 0x02#8 = .cmp .r1 (.reg .r2) ∧
    decode 0x2E#8 0x80#8 = .cmp .r3 (.abs 0x80#8) ∧ decode 0x23#8 0x00#8 = .cmp .r0 (.idx .r0) := by decide

/-- JMP (0011 ....): V-JMP-1, V-JMP-3. -/
theorem test_decode_jmp : decode 0x31#8 0x2A#8 = .jmp 0x2A#8 ∧ decode 0x3E#8 0x2A#8 = .jmp 0x2A#8 := by decide

/-- CALL (0100 .. mm): V-CALL-1 to V-CALL-4. -/
theorem test_decode_call :
    decode 0x41#8 0x2A#8 = .call (.const 0x2A#8) ∧ decode 0x40#8 0x02#8 = .call (.reg .r2) ∧
    decode 0x42#8 0x90#8 = .call (.abs 0x90#8) ∧ decode 0x43#8 0x01#8 = .call (.idx .r1) := by decide

/-- RET (0101 ....): V-RET-1, V-RET-4. -/
theorem test_decode_ret : decode 0x50#8 0x00#8 = .ret ∧ decode 0x5F#8 0xFF#8 = .ret := by decide

/-- CONDJUMP (0110 .. cc): R65 and V-JCC-1. -/
theorem test_decode_condjump :
    decode 0x60#8 0x40#8 = .jz 0x40#8 ∧ decode 0x61#8 0x04#8 = .jnz 0x04#8 ∧ decode 0x62#8 0x30#8 = .jc 0x30#8 ∧
    decode 0x63#8 0x20#8 = .jnc 0x20#8 ∧ decode 0x6C#8 0x40#8 = .jz 0x40#8 := by decide

/-- LOAD (0111 pp mm): V-LD-1 to V-LD-4, V-LD-8 (unread bits of b1). -/
theorem test_decode_load :
    decode 0x74#8 0x02#8 = .load .r1 (.reg .r2) ∧ decode 0x7D#8 0x02#8 = .load .r3 (.const 0x02#8) ∧
    decode 0x72#8 0x80#8 = .load .r0 (.abs 0x80#8) ∧ decode 0x73#8 0x01#8 = .load .r0 (.idx .r1) ∧
    decode 0x70#8 0xFE#8 = .load .r0 (.reg .r2) := by decide

/-- STORE (1000 pp 1m): V-ST-1 to V-ST-3; modes 0 and 1 are the reserved row: V-ST-5, V-ST-6. -/
theorem test_decode_store :
    decode 0x86#8 0x80#8 = .store .r1 (.abs 0x80#8) ∧ decode 0x87#8 0x02#8 = .store .r1 (.idx .r2) ∧
    decode 0x8F#8 0x03#8 = .store .r3 (.idx .r3) ∧ decode 0x80#8 0x00#8 = .storeInvalid 0x80#8 ∧
    decode 0x8D#8 0x40#8 = .storeInvalid 0x8D#8 := by decide

/-- ADD, SUB, AND, OR and XOR (1001 to 1101 pp mm): V-ALU and the bytes named above the table V-ADD. -/
theorem test_decode_alu :
    decode 0x96#8 0x80#8 = .add .r1 (.abs 0x80#8) ∧ decode 0xA7#8 0x02#8 = .sub .r1 (.idx .r2) ∧
    decode 0xB1#8 0x0F#8 = .and .r0 (.const 0x0F#8) ∧ decode 0xC1#8 0x0F#8 = .or .r0 (.const 0x0F#8) ∧
    decode 0xDC#8 0x03#8 = .xor .r3 (.reg .r3) := by decide

/-- UNARY (1110 . sss): the operand register is b1[1:0] and bit 3 is not read: V-UN-1 to V-UN-4, P1, P3. -/
theorem test_decode_unary :
    decode 0xE0#8 0x02#8 = .inc .r2 ∧ decode 0xE1#8 0x01#8 = .dec .r1 ∧ decode 0xE2#8 0x02#8 = .not .r2 ∧
    decode 0xEA#8 0xFE#8 = .not .r2 ∧ decode 0xE3#8 0x00#8 = .asl .r0 ∧ decode 0xEC#8 0x03#8 = .asr .r3 := by decide

/-- The reserved sub-operations: V-UN-5. -/
theorem test_decode_unaryReserved :
    decode 0xE5#8 0x00#8 = .unaryReserved5 0xE5#8 ∧ decode 0xE6#8 0x01#8 = .unaryReserved67 0xE6#8 ∧
    decode 0xE7#8 0x02#8 = .unaryReserved67 0xE7#8 ∧ decode 0xED#8 0x00#8 = .unaryReserved5 0xED#8 ∧
    decode 0xEE#8 0x00#8 = .unaryReserved67 0xEE#8 ∧ decode 0xEF#8 0x03#8 = .unaryReserved67 0xEF#8 := by decide

/-- STACK (1111 pp . d): the primary field, bit 1 not read: V-STK-1, V-STK-2, V-STK-5, V-STK-8. -/
theorem test_decode_stack :
    decode 0xF4#8 0x01#8 = .push .r1 ∧ decode 0xF5#8 0x01#8 = .pop .r1 ∧ decode 0xF4#8 0x02#8 = .push .r1 ∧
    decode 0xF2#8 0x00#8 = .push .r0 ∧ decode 0xF6#8 0x01#8 = .push .r1 := by decide

/-- Too few bytes are refused by name (R60); the bytes after an instruction are left (R60). -/
theorem test_decodeBytes :
    decodeBytes [] = .error .truncated ∧ decodeBytes [0x31#8] = .error .truncated ∧
    decodeBytes [0x31#8, 0x2A#8, 0x00#8] = .ok (.jmp 0x2A#8, [0x00#8]) := by decide

/-- The canonical bytes of P1 and P2 (R74). -/
theorem test_encode :
    encode (.load .r1 (.const 0x05#8)) = [0x75#8, 0x05#8] ∧ encode (.add .r0 (.reg .r1)) = [0x90#8, 0x01#8] ∧
    encode (.dec .r1) = [0xE1#8, 0x01#8] ∧ encode (.store .r0 (.abs 0x40#8)) = [0x82#8, 0x40#8] ∧
    encode (.push .r1) = [0xF4#8, 0x01#8] ∧ encode (.pop .r1) = [0xF5#8, 0x01#8] := by decide

/-- A pattern of the opcode table is one 16-bit word, b0 in bits 15 to 8 (R75). -/
theorem test_decodeTableWord :
    decodeTableWord 16 0x8000 = some (.storeInvalid 0x80#8) ∧ decodeTableWord 16 0x312A = some (.jmp 0x2A#8) := by
  decide

/-! ## One step of each instruction -/

/-- V-SYS-1, V-SYS-4: an empty machine halts on its first step, with the frame's two events. -/
theorem test_halt :
    (next (step State.reset)).map (fun t => (pointers t, t.halted, t.events)) =
      some ((0x02#8, 0xBF#8, false, false), true, [.ipChanged 0x02#8, .stepCompleted]) := by decide

/-- V-SYS-5: halted is tested before the fetch. -/
theorem test_halted_at_ff :
    next (step { State.reset with halted := true, ip := 0xFF#8 }) =
      some { State.reset with halted := true, ip := 0xFF#8 } := by decide

/-- V-INT-1: INT to an empty entry. -/
theorem test_int_ignored :
    next (step { boot [(0x00, 0x10#8), (0x01, 0x07#8)] 0x12#8 0#8 0#8 0#8 with carry := true }) =
      some { boot [(0x00, 0x10#8), (0x01, 0x07#8)] 0x12#8 0#8 0#8 0#8 with
        carry := true, ip := 0x02#8, events := [.ipChanged 0x02#8, .stepCompleted] } := by decide

/-- V-INT-2: the random handler has completed when the step ends, and clears C (here with the draw 0xFF, the
greatest); what it draws is free. -/
theorem test_int_random :
    (next (step (withHandler .random))).map (fun t => (t.ip, t.interrupted, t.mem)) =
      some (0x02#8, false, [(0x00, 0x10#8), (0x01, 0x05#8)]) ∧
    (fun t : State => (t.regs.r0, t.carry, t.interrupted))
        (performResponse { inCall := [.register 0 0xFF], completion := .withinCall } (withHandler .random)) =
      (0xFF#8, false, false) := by decide

/-- V-INT-3: the call of a handler that defers one write. -/
theorem test_handler_defers :
    performResponse { inCall := [], completion := .later [.memory 0x80 0x01] } (enterHandler State.reset) =
      held { writes := [.memory 0x80 0x01], completes := true } := by decide

/-- V-INT-3, later: its write and its completion, which emits nothing. -/
theorem test_handler_moves :
    (next (runFor 2 (held { writes := [.memory 0x80 0x01], completes := true }))).map
        (fun t => (t.mem, t.interrupted, t.pending, t.events)) =
      some ([(0x80, 0x01#8)], false, none, [.memoryChanged 0x80#8 0x01#8, .memoryChangedAt 0x80#8 0x01#8]) := by decide

/-- V-INT-4: a handler that writes IP and completes within the call. -/
theorem test_handler_writes_ip :
    (fun t : State => (t.ip, t.interrupted, t.events))
        (performResponse { inCall := [.ip 0x40], completion := .withinCall } (enterHandler State.reset)) =
      (0x40#8, false, [.ipChanged 0x40#8]) := by decide

/-- V-INT-6: a handler that never completes. -/
theorem test_handler_never :
    next (step (held { writes := [], completes := false })) = some (held { writes := [], completes := false }) := by
  decide

/-- V-CMP-1: equal, C untouched. -/
theorem test_cmp_equal :
    (next (step { boot [(0x00, 0x21#8), (0x01, 0x2A#8)] 0x2A#8 0#8 0#8 0#8 with carry := true })).map
        (fun t => (pointers t, t.events)) =
      some ((0x02#8, 0xBF#8, true, true), [.ipChanged 0x02#8, .zeroFlagChanged true, .stepCompleted]) := by decide

/-- V-CMP-2: not equal, Z cleared. -/
theorem test_cmp_differs :
    (next (step { boot [(0x00, 0x21#8), (0x01, 0x29#8)] 0x2A#8 0#8 0#8 0#8 with zero := true })).map pointers =
      some (0x02#8, 0xBF#8, false, false) := by decide

/-- V-JMP-1: the target is not advanced by 2. -/
theorem test_jmp :
    (next (step (boot [(0x00, 0x31#8), (0x01, 0x2A#8)] 0#8 0#8 0#8 0#8))).map (fun t => (t.ip, t.events)) =
      some (0x2A#8, [.ipChanged 0x02#8, .ipChanged 0x2A#8, .stepCompleted]) := by decide

/-- V-CALL-5: the target cell is the stack cell, read before it is written. -/
theorem test_call_reads_first :
    (next (step (boot [(0x00, 0x42#8), (0x01, 0xBF#8), (0xBF, 0x30#8)] 0#8 0#8 0#8 0#8))).map
        (fun t => (t.ip, t.sp, readMemory 0xBF#8 t)) = some (0x30#8, 0xBE#8, 0x02#8) := by decide

/-- V-CALL-7: IP wraps before the push. -/
theorem test_call_wraps :
    (next (step { boot [(0xFE, 0x41#8), (0xFF, 0x10#8)] 0#8 0#8 0#8 0#8 with ip := 0xFE#8, sp := 0x80#8 })).map
        (fun t => (t.ip, t.sp, t.events)) =
      some (0x10#8, 0x7F#8, [.ipChanged 0x00#8, .memoryChanged 0x80#8 0x00#8, .memoryChangedAt 0x80#8 0x00#8,
        .spChanged 0x7F#8, .ipChanged 0x10#8, .stepCompleted]) := by decide

/-- V-RET-1: the stack cell keeps its content. -/
theorem test_ret :
    (next (step { boot [(0x2A, 0x50#8), (0xBF, 0x02#8)] 0#8 0#8 0#8 0#8 with ip := 0x2A#8, sp := 0xBE#8 })).map
        (fun t => (t.ip, t.sp, readMemory 0xBF#8 t)) = some (0x02#8, 0xBF#8, 0x02#8) := by decide

/-- V-RET-3: SP wraps. -/
theorem test_ret_wraps :
    (next (step { boot [(0x00, 0x44#8), (0x02, 0x50#8)] 0#8 0#8 0#8 0#8 with ip := 0x02#8, sp := 0xFF#8 })).map
        (fun t => (t.ip, t.sp)) = some (0x44#8, 0x00#8) := by decide

/-- V-JZ-1, V-JZ-2. -/
theorem test_jz :
    (next (step { boot [(0x08, 0x60#8), (0x09, 0x40#8)] 0#8 0#8 0#8 0#8 with ip := 0x08#8, zero := true })).map State.ip =
      some 0x40#8 ∧
    (next (step { boot [(0x08, 0x60#8), (0x09, 0x40#8)] 0#8 0#8 0#8 0#8 with ip := 0x08#8 })).map State.ip =
      some 0x0A#8 := by decide

/-- V-JNZ-1, V-JNZ-2. -/
theorem test_jnz :
    (next (step { boot [(0x0A, 0x61#8), (0x0B, 0x04#8)] 0#8 0#8 0#8 0#8 with ip := 0x0A#8 })).map State.ip =
      some 0x04#8 ∧
    (next (step { boot [(0x0A, 0x61#8), (0x0B, 0x04#8)] 0#8 0#8 0#8 0#8 with ip := 0x0A#8, zero := true })).map State.ip =
      some 0x0C#8 := by decide

/-- V-JC-1, V-JC-2. -/
theorem test_jc :
    (next (step { boot [(0x00, 0x62#8), (0x01, 0x30#8)] 0#8 0#8 0#8 0#8 with carry := true })).map State.ip =
      some 0x30#8 ∧
    (next (step (boot [(0x00, 0x62#8), (0x01, 0x30#8)] 0#8 0#8 0#8 0#8))).map State.ip = some 0x02#8 := by decide

/-- V-JNC-1, V-JNC-2. -/
theorem test_jnc :
    (next (step (boot [(0x00, 0x63#8), (0x01, 0x20#8)] 0#8 0#8 0#8 0#8))).map State.ip = some 0x20#8 ∧
    (next (step { boot [(0x00, 0x63#8), (0x01, 0x20#8)] 0#8 0#8 0#8 0#8 with carry := true })).map State.ip =
      some 0x02#8 := by decide

/-- V-LD-1 to V-LD-4: the four modes; C is cleared. -/
theorem test_load_modes :
    (next (step (loadStart 0x74#8 0x02#8))).map registers = some [0x00#8, 0x80#8, 0x80#8, 0x03#8] ∧
    (next (step (loadStart 0x7D#8 0x02#8))).map registers = some [0x00#8, 0x42#8, 0x80#8, 0x02#8] ∧
    r0AndCarry (loadStart 0x72#8 0x80#8) = some (0x99#8, false) ∧
    r0AndCarry (loadStart 0x73#8 0x01#8) = some (0x77#8, false) := by decide

/-- V-LD-6: the fetch of cells 0xFE and 0xFF; IP wraps. -/
theorem test_load_wraps :
    (next (step { boot [(0xFE, 0x71#8), (0xFF, 0x05#8)] 0#8 0#8 0#8 0#8 with ip := 0xFE#8 })).map
        (fun t => (t.regs.r0, t.ip, t.events)) =
      some (0x05#8, 0x00#8, [.ipChanged 0x00#8, .carryFlagChanged false, .registerChanged .r0 0x05#8,
        .registerChangedAt .r0 0x05#8, .stepCompleted]) := by decide

/-- V-ST-2: indexed store; registers and C unchanged. -/
theorem test_store_indexed :
    (next (step (storeStart 0x87#8 0x02#8))).map (fun t => (readMemory 0x80#8 t, registers t, t.carry, t.events)) =
      some (0x42#8, [0x11#8, 0x42#8, 0x80#8, 0xC0#8], true, [.ipChanged 0x02#8, .memoryChanged 0x80#8 0x42#8,
        .memoryChangedAt 0x80#8 0x42#8, .stepCompleted]) := by decide

/-- V-ST-4: a store over its own opcode byte; the cell now holds 0 and is not listed. -/
theorem test_store_own_byte :
    (next (step (boot [(0x00, 0x82#8)] 0#8 0#8 0#8 0#8))).map (fun t => (t.mem, t.ip)) = some ([], 0x02#8) := by decide

/-- V-ST-5, V-ST-6, V-FLT-4. -/
theorem test_storeInvalid :
    fault (step (storeStart 0x80#8 0x00#8)) = some (.invalidStoreMode 0x00#8 0x80#8) ∧
    fault (step (storeStart 0x8D#8 0x40#8)) = some (.invalidStoreMode 0x00#8 0x8D#8) := by decide

/-- V-ADD: 0x7F + 1, 0xFF + 0xFF, 0xFF + 0. -/
theorem test_add :
    r0AndCarry (aluStart 0x91#8 0x7F#8 0x01#8) = some (0x80#8, false) ∧
    r0AndCarry (aluStart 0x91#8 0xFF#8 0xFF#8) = some (0xFE#8, true) ∧
    r0AndCarry (aluStart 0x91#8 0xFF#8 0x00#8) = some (0xFF#8, false) := by decide

/-- V-ALU-7: the old register is the index. -/
theorem test_add_indexed_self :
    r1AndCarry (boot [(0x00, 0x97#8), (0x01, 0x01#8)] 0#8 0x02#8 0#8 0#8) = some (0x02#8, false) := by decide

/-- V-SUB: 0 - 1, 0 - 0xFF, 5 - 5. -/
theorem test_sub :
    r0AndCarry (aluStart 0xA1#8 0x00#8 0x01#8) = some (0xFF#8, true) ∧
    r0AndCarry (aluStart 0xA1#8 0x00#8 0xFF#8) = some (0x01#8, true) ∧
    r0AndCarry (aluStart 0xA1#8 0x05#8 0x05#8) = some (0x00#8, false) := by decide

/-- V-ALU-6: the minuend is the register, the subtrahend the cell. -/
theorem test_sub_indexed :
    r1AndCarry (boot [(0x00, 0xA7#8), (0x01, 0x02#8), (0x80, 0x0F#8)] 0#8 0x10#8 0x80#8 0#8) =
      some (0x01#8, false) := by decide

/-- V-LOG: AND. -/
theorem test_and :
    r0AndCarry (aluStart 0xB1#8 0xCA#8 0x0F#8) = some (0x0A#8, false) ∧
    r0AndCarry (aluStart 0xB1#8 0xAA#8 0x55#8) = some (0x00#8, false) := by decide

/-- V-LOG: OR. -/
theorem test_or :
    r0AndCarry (aluStart 0xC1#8 0xCA#8 0x0F#8) = some (0xCF#8, false) ∧
    r0AndCarry (aluStart 0xC1#8 0xAA#8 0x55#8) = some (0xFF#8, false) := by decide

/-- V-LOG: XOR. -/
theorem test_xor :
    r0AndCarry (aluStart 0xD1#8 0xCA#8 0x0F#8) = some (0xC5#8, false) ∧
    r0AndCarry (aluStart 0xD1#8 0xFF#8 0xFF#8) = some (0x00#8, false) := by decide

/-- V-UN: INC. -/
theorem test_inc :
    r1AndCarry (unaryStart 0xE0#8 0xFE#8) = some (0xFF#8, false) ∧
    r1AndCarry (unaryStart 0xE0#8 0xFF#8) = some (0x00#8, true) := by decide

/-- V-UN: DEC. -/
theorem test_dec :
    r1AndCarry (unaryStart 0xE1#8 0x00#8) = some (0xFF#8, true) ∧
    r1AndCarry (unaryStart 0xE1#8 0x01#8) = some (0x00#8, false) := by decide

/-- V-UN: NOT; C is the open parameter and is not tested. -/
theorem test_not :
    (r1AndCarry (unaryStart 0xE2#8 0x80#8)).map Prod.fst = some 0x7F#8 ∧
    (r1AndCarry (unaryStart 0xE2#8 0x0F#8)).map Prod.fst = some 0xF0#8 := by decide

/-- V-UN: ASL. -/
theorem test_asl :
    r1AndCarry (unaryStart 0xE3#8 0x7F#8) = some (0xFE#8, false) ∧
    r1AndCarry (unaryStart 0xE3#8 0x81#8) = some (0x02#8, true) := by decide

/-- V-UN: ASR: no sign extension, the bit shifted out is lost. -/
theorem test_asr :
    r1AndCarry (unaryStart 0xE4#8 0x81#8) = some (0x40#8, false) ∧
    r1AndCarry (unaryStart 0xE4#8 0xFF#8) = some (0x7F#8, false) := by decide

/-- V-UN-5, V-FLT-5. -/
theorem test_unaryReserved :
    fault (step (unaryStart 0xE5#8 0x00#8)) = some (.reservedUnarySubop 0x00#8 0xE5#8) ∧
    fault (step (unaryStart 0xEF#8 0x00#8)) = some (.reservedUnarySubop 0x00#8 0xEF#8) := by decide

/-- V-STK-3: SP wraps down. -/
theorem test_push :
    (next (step { boot [(0x10, 0xF8#8), (0x11, 0x02#8)] 0#8 0#8 0xAB#8 0#8 with ip := 0x10#8, sp := 0x00#8 })).map
        (fun t => (readMemory 0x00#8 t, t.sp, t.events)) =
      some (0xAB#8, 0xFF#8, [.ipChanged 0x12#8, .memoryChanged 0x00#8 0xAB#8, .memoryChangedAt 0x00#8 0xAB#8,
        .spChanged 0xFF#8, .stepCompleted]) := by decide

/-- V-STK-4: SP wraps up; C is cleared. -/
theorem test_pop :
    (next (step { boot [(0x00, 0x5A#8), (0x10, 0xFD#8), (0x11, 0x03#8)] 0#8 0#8 0#8 0#8 with
        ip := 0x10#8, sp := 0xFF#8, carry := true })).map
        (fun t => (t.regs.r3, pointers t, t.events)) =
      some (0x5A#8, (0x12#8, 0x00#8, false, false), [.ipChanged 0x12#8, .spChanged 0x00#8, .carryFlagChanged false,
        .registerChanged .r3 0x5A#8, .registerChangedAt .r3 0x5A#8, .stepCompleted]) := by decide

/-- V-FLT-1, V-FLT-3: the fetch at 0xFF and at 0xFE. -/
theorem test_fetch_range :
    fault (step { State.reset with ip := 0xFF#8 }) = some (.fetchOutOfRange 0xFF#8) ∧
    (next (step { State.reset with ip := 0xFE#8 })).map (fun t => (t.halted, t.ip)) = some (true, 0x00#8) := by decide

/-! ## The guarded writes and the host operations -/

/-- V-CLAMP. -/
theorem test_clamp :
    ([0, 255, 256, 257, 510, -1, -255, -256] : List Int).map (fun r => (clampValue r, clampCarry r)) =
      [(0x00#8, false), (0xFF#8, false), (0x00#8, true), (0x01#8, true), (0xFE#8, true), (0xFF#8, true),
        (0x01#8, true), (0x00#8, true)] := by decide

/-- V-GW-2, V-GW-3. -/
theorem test_guarded_register :
    (guardedWrite (.register 0 300) State.reset).map (fun t => (t.regs.r0, t.carry, t.events)) =
      some (0x2C#8, true, [.carryFlagChanged true, .registerChanged .r0 0x2C#8, .registerChangedAt .r0 0x2C#8]) ∧
    (guardedWrite (.register 1 (-1)) State.reset).map (fun t => (t.regs.r1, t.carry)) = some (0xFF#8, true) := by decide

/-- V-GW-4 to V-GW-7. -/
theorem test_guarded_others :
    (guardedWrite (.memory 0x90 0x1FF) State.reset).map (fun t => (readMemory 0x90#8 t, t.carry, t.events)) =
      some (0xFF#8, false, [.memoryChanged 0x90#8 0xFF#8, .memoryChangedAt 0x90#8 0xFF#8]) ∧
    (guardedWrite (.ip 0x102) State.reset).map (fun t => (t.ip, t.events)) = some (0x02#8, [.ipChanged 0x02#8]) ∧
    (guardedWrite (.sp (-1)) State.reset).map (fun t => (t.sp, t.events)) = some (0xFF#8, [.spChanged 0xFF#8]) ∧
    (guardedWrite (.zero 1) State.reset).map (fun t => (t.zero, t.events)) =
      some (true, [.zeroFlagChanged true]) := by decide

/-- V-GW-9. -/
theorem test_guarded_refused :
    refusal (hostWrite (.register 4 0) State.reset) = some .argumentOutOfRange ∧
    refusal (hostWrite (.memory 256 0) State.reset) = some .argumentOutOfRange ∧
    refusal (hostWrite (.carry 1) (held { writes := [], completes := true })) = some .writeWhileInterrupted := by decide

/-- V-RST-1, V-RST-4: everything is reinitialised but the table. -/
theorem test_reset :
    next (hostReset { withHandler .random with halted := true, ip := 0x0A#8, sp := 0x01#8, zero := true }) =
      some { State.reset with intTable := [(5, .random)] } ∧
    refusal (hostReset (held { writes := [], completes := true })) = some .resetWhileInterrupted := by decide

/-- Registering: the last writer wins, only at setup, only ids 0 to 255 (R164, R27). -/
theorem test_register :
    (next (hostRegister .setup 5 (.external 1) (withHandler .random))).map State.intTable = some [(5, .external 1)] ∧
    refusal (hostRegister .setup 256 .random State.reset) = some .argumentOutOfRange ∧
    refusal (hostRegister .running 5 .random State.reset) = some .registerDuringRun := by decide

/-- The loader (R195): the last byte for a cell stays, a 0 is not listed; no load in flight (R200). -/
theorem test_load_image :
    (next (hostLoad [(0x01#8, 0x2A#8), (0x00#8, 0x31#8), (0x01#8, 0x00#8)] State.reset)).map State.mem =
      some [(0x00, 0x31#8)] ∧
    refusal (hostLoad [(0x00#8, 0x31#8)] (held { writes := [], completes := true })) = some .writeWhileInterrupted := by
  decide

/-- The first step after reset runs a placed word: JMP 0x2A. -/
theorem test_withFetchWord :
    (next (step (State.reset.withFetchWord 16 0x312A))).map State.ip = some 0x2A#8 ∧
    (next (step ({ State.reset with halted := true, ip := 0xFF#8 }.withFetchWord 16 0x312A))).map State.ip =
      some 0x2A#8 := by decide

/-! ## Witnesses: concrete states and operands that meet the hypotheses of the statements -/

/-- `JMP 0x2A` at 0x00, the engine running. -/
def jmpState : State := boot [(0x00, 0x31#8), (0x01, 0x2A#8)] 0#8 0#8 0#8 0#8

/-- A halted machine. -/
def haltedState : State := { State.reset with halted := true }

/-- A register frame to run any one instruction in: distinct registers, C and Z set. -/
def mixed : State :=
  { boot [(0x05, 0x77#8), (0xBF, 0x11#8), (0xC0, 0x22#8)] 0x02#8 0x80#8 0xC1#8 0x03#8 with
    zero := true, carry := true, intTable := [(5, .random), (6, .external 1)] }

/-- DecodeInvertsEncode: well-formed terms, among them the reserved rows. -/
theorem witness_DecodeInvertsEncode :
    (Instr.add .r3 (.idx .r2)).wellFormed = true ∧ (Instr.storeInvalid 0x8D#8).wellFormed = true ∧
    (Instr.unaryReserved5 0xED#8).wellFormed = true ∧ (Instr.unaryReserved67 0xEF#8).wellFormed = true := by decide

/-- EveryBytePairIsItsTableRow: for each clause the least and the greatest opcode byte it covers, in its order. -/
theorem witness_EveryBytePairIsItsTableRow :
    ([(0x00, 0x0F, 0xF0, 0x00), (0x10, 0x1F, 0xF0, 0x10), (0x20, 0x2F, 0xF0, 0x20), (0x30, 0x3F, 0xF0, 0x30),
      (0x40, 0x4F, 0xF0, 0x40), (0x50, 0x5F, 0xF0, 0x50), (0x60, 0x6C, 0xF3, 0x60), (0x61, 0x6D, 0xF3, 0x61),
      (0x62, 0x6E, 0xF3, 0x62), (0x63, 0x6F, 0xF3, 0x63), (0x70, 0x7F, 0xF0, 0x70), (0x82, 0x8E, 0xF3, 0x82),
      (0x83, 0x8F, 0xF3, 0x83), (0x80, 0x8D, 0xF2, 0x80)] : List (Byte × Byte × Byte × Byte)).all
        (fun (lo, hi, mask, code) => lo &&& mask == code && hi &&& mask == code) = true ∧
    ([(0x90, 0x9F, 0xF0, 0x90), (0xA0, 0xAF, 0xF0, 0xA0), (0xB0, 0xBF, 0xF0, 0xB0), (0xC0, 0xCF, 0xF0, 0xC0),
      (0xD0, 0xDF, 0xF0, 0xD0), (0xE0, 0xE8, 0xF7, 0xE0), (0xE1, 0xE9, 0xF7, 0xE1), (0xE2, 0xEA, 0xF7, 0xE2),
      (0xE3, 0xEB, 0xF7, 0xE3), (0xE4, 0xEC, 0xF7, 0xE4), (0xE5, 0xED, 0xF7, 0xE5), (0xE6, 0xEF, 0xF6, 0xE6),
      (0xF0, 0xFE, 0xF1, 0xF0), (0xF1, 0xFF, 0xF1, 0xF1)] : List (Byte × Byte × Byte × Byte)).all
        (fun (lo, hi, mask, code) => lo &&& mask == code && hi &&& mask == code) = true := by decide

/-- ClampWrapsAndCarriesOutside0To255: both sides at both ends of the range. -/
theorem witness_ClampWrapsAndCarriesOutside0To255 :
    clampCarry (-1) = true ∧ clampCarry 0 = false ∧ clampCarry 255 = false ∧ clampCarry 256 = true := by decide

/-- OutOfRangeArgumentsAreRefused: each clause just outside and just inside its range. -/
theorem witness_OutOfRangeArgumentsAreRefused :
    guardedWrite (.memory (-1) 0) mixed = none ∧ guardedWrite (.memory 256 0) mixed = none ∧
    guardedWrite (.memory 0 0) mixed ≠ none ∧ guardedWrite (.memory 255 0) mixed ≠ none ∧
    guardedWrite (.register (-1) 0) mixed = none ∧ guardedWrite (.register 4 0) mixed = none ∧
    guardedWrite (.register 0 0) mixed ≠ none ∧ guardedWrite (.register 3 0) mixed ≠ none ∧
    guardedWrite (.zero (-1)) mixed = none ∧ guardedWrite (.zero 2) mixed = none ∧
    guardedWrite (.zero 0) mixed ≠ none ∧ guardedWrite (.zero 1) mixed ≠ none ∧
    guardedWrite (.carry (-1)) mixed = none ∧ guardedWrite (.carry 2) mixed = none ∧
    guardedWrite (.carry 0) mixed ≠ none ∧ guardedWrite (.carry 1) mixed ≠ none := by decide

/-- OutOfRangeArgumentsAreRefused, its clauses about a host write: in flight, refused and made. -/
theorem witness_hostWrite :
    (held { writes := [], completes := true }).interrupted = true ∧
    mixed.interrupted = false ∧ guardedWrite (.register 4 0) mixed = none ∧
    (guardedWrite (.register 3 300) mixed).map (fun t => t.regs.r3) = some 0x2C#8 := by decide

/-- CanonicalMemoriesThatReadAlikeAreEqual: memories written in two orders. -/
theorem witness_CanonicalMemoriesThatReadAlikeAreEqual :
    Memory.wf (writeCell (writeCell [] 5 0x01#8) 9 0x02#8) = true ∧
    Memory.wf (writeCell (writeCell [] 9 0x02#8) 5 0x01#8) = true ∧
    ∀ a : Byte, readCell (writeCell (writeCell [] 5 0x01#8) 9 0x02#8) a.toNat =
      readCell (writeCell (writeCell [] 9 0x02#8) 5 0x01#8) a.toNat :=
  ⟨by decide, by decide, fun _ => congrArg (readCell · _) (by decide)⟩

/-- StepRunsTheDecodedInstruction, at 0x00 and at the last address it covers. -/
theorem witness_StepRunsTheDecodedInstruction :
    (jmpState.canFetch ∧ readMemory jmpState.ip jmpState = 0x31#8 ∧ readMemory (jmpState.ip + 1#8) jmpState = 0x2A#8 ∧
      decodeBytes [0x31#8, 0x2A#8] = .ok (.jmp 0x2A#8, [])) ∧
    ({ jmpState with ip := 0xFE#8 } : State).canFetch ∧ decodeBytes [0x00#8, 0x00#8] = .ok (.halt, []) := by
  unfold State.canFetch
  decide

/-- HaltedStepChangesNothing. -/
theorem witness_HaltedStepChangesNothing : haltedState.halted = true := by decide

/-- FetchAtTheTopOfMemoryFaults. -/
theorem witness_FetchAtTheTopOfMemoryFaults :
    ({ State.reset with ip := 0xFF#8 } : State).halted = false ∧
    ({ State.reset with ip := 0xFF#8 } : State).interrupted = false ∧
    ({ State.reset with ip := 0xFF#8 } : State).ip = 0xFF#8 := by decide

/-- HandlerInFlightHoldsTheEngine: a state for each of its three clauses. -/
theorem witness_HandlerInFlightHoldsTheEngine :
    (held { writes := [.ip 0x40], completes := true }).halted = false ∧
    (held { writes := [.ip 0x40], completes := true }).interrupted = true ∧
    (held { writes := [.ip 0x40], completes := true }).pending = some { writes := [.ip 0x40], completes := true } ∧
    (held { writes := [], completes := true }).pending = some { writes := [], completes := true } ∧
    (held { writes := [], completes := false }).pending = some { writes := [], completes := false } := by decide

/-- CompletingHandlerLiftsTheHold. -/
theorem witness_CompletingHandlerLiftsTheHold :
    (held { writes := [.sp 1, .zero 7], completes := true }).halted = false ∧
    (held { writes := [.sp 1, .zero 7], completes := true }).interrupted = true ∧
    (held { writes := [.sp 1, .zero 7], completes := true }).pending =
      some { writes := [.sp 1, .zero 7], completes := true } := by decide

/-- HandlerThatNeverCompletesHoldsForEver. -/
theorem witness_HandlerThatNeverCompletesHoldsForEver :
    (held { writes := [.sp 1], completes := false }).halted = false ∧
    (held { writes := [.sp 1], completes := false }).interrupted = true ∧
    (held { writes := [.sp 1], completes := false }).pending = some { writes := [.sp 1], completes := false } := by decide

/-- StepFaultsExactlyWhereTheSpecSays: each of the three Faults, and a neighbour of each that is none. -/
theorem witness_StepFaultsExactlyWhereTheSpecSays :
    fault (step { State.reset with ip := 0xFF#8 }) = some (.fetchOutOfRange 0xFF#8) ∧
    fault (step { State.reset with ip := 0xFE#8 }) = none ∧
    fault (step (boot [(0x00, 0x81#8)] 0#8 0#8 0#8 0#8)) = some (.invalidStoreMode 0x00#8 0x81#8) ∧
    fault (step (boot [(0x00, 0x82#8)] 0#8 0#8 0#8 0#8)) = none ∧
    fault (step (boot [(0x00, 0xE5#8)] 0#8 0#8 0#8 0#8)) = some (.reservedUnarySubop 0x00#8 0xE5#8) ∧
    fault (step (boot [(0x00, 0xE7#8)] 0#8 0#8 0#8 0#8)) = some (.reservedUnarySubop 0x00#8 0xE7#8) ∧
    fault (step (boot [(0x00, 0xE4#8)] 0#8 0#8 0#8 0#8)) = none := by decide

/-- The statements whose hypothesis is that an instruction answers a next state (ExecutedInstructionsEmitInOrder,
EachInstructionWritesOnlyWhatItsRuleNames): one such instruction of each shape. -/
theorem witness_ExecutedInstructionsEmitInOrder :
    ([.halt, .cmp .r0 (.const 0x02#8), .jmp 0x01#8, .call (.reg .r1), .ret, .jz 0x01#8, .load .r2 (.abs 0x05#8),
      .store .r1 (.idx .r2), .not .r1, .push .r3, .pop .r3] : List Instr).all
        (fun i => (next (exec i mixed)).isSome) = true := by decide

/-- EachInstructionWritesOnlyWhatItsRuleNames: addresses inside and outside the stored byte, a register written
and one not. -/
theorem witness_EachInstructionWritesOnlyWhatItsRuleNames :
    storedAddress (.store .r1 (.idx .r2)) mixed = some 0xC1#8 ∧ storedAddress (.push .r0) mixed = some 0xBF#8 ∧
    storedAddress .ret mixed ≠ some 0xC0#8 ∧ writtenRegister (.pop .r3) = some .r3 ∧
    writtenRegister (.pop .r3) ≠ some .r2 ∧ bodyWritesIp (.pop .r3) = false ∧ bodyWritesSp (.cmp .r0 (.reg .r1)) = false ∧
    (next (exec (.pop .r3) mixed)).isSome = true := by decide

/-- IntWithoutHandlerIsIgnored, IntRunsTheRandomHandler, IntInvokesTheHandler: one table with all three. -/
theorem witness_IntStatements :
    lookupKey (0x07#8 : Byte).toNat mixed.intTable = none ∧
    lookupKey (0x05#8 : Byte).toNat mixed.intTable = some .random ∧
    lookupKey (0x06#8 : Byte).toNat mixed.intTable = some (.external 1) := by decide

/-- CompareSetsZeroToEquality: both sides of its equivalence. -/
theorem witness_CompareSetsZeroToEquality :
    (next (exec (.cmp .r0 (.const 0x02#8)) mixed)).map State.zero = some true ∧
    (next (exec (.cmp .r0 (.const 0x03#8)) mixed)).map State.zero = some false := by decide

/-- JumpSetsIpToTheOperandByte, CallPushesTheReturnAddress, HaltStopsTheEngine, ReturnPopsIp, PushStoresThenLowersSp
and PopRaisesSpThenLoads: opcode bytes that meet their masks. -/
theorem witness_opcodeMasks :
    0x3F#8 &&& 0xF0#8 = 0x30#8 ∧ 0x4D#8 &&& 0xF3#8 = opcodeByte 0x4 0 (operandMode (.const 0x10#8)) ∧
    0x0F#8 &&& 0xF0#8 = 0x00#8 ∧ 0x5F#8 &&& 0xF0#8 = 0x50#8 ∧
    0xFE#8 &&& 0xFD#8 = opcodeByte 0xF (regIndex .r3) 0 ∧ 0xFF#8 &&& 0xFD#8 = opcodeByte 0xF (regIndex .r3) 1 := by decide

/-- ConditionalJumpsTestOneFlag: each jump taken and not taken. -/
theorem witness_ConditionalJumpsTestOneFlag :
    ([.jz 0x40#8, .jc 0x40#8] : List Instr).all (fun i => (next (exec i mixed)).map State.ip == some 0x40#8) = true ∧
    ([.jnz 0x40#8, .jnc 0x40#8] : List Instr).all (fun i => (next (exec i mixed)).map State.ip == some 0x02#8) = true ∧
    ([.jz 0x40#8, .jc 0x40#8] : List Instr).all
      (fun i => (next (exec i State.reset)).map State.ip == some 0x02#8) = true ∧
    ([.jnz 0x40#8, .jnc 0x40#8] : List Instr).all
      (fun i => (next (exec i State.reset)).map State.ip == some 0x40#8) = true ∧
    0x6C#8 &&& 0xF3#8 = 0x60#8 ∧ 0x6D#8 &&& 0xF3#8 = 0x61#8 ∧ 0x6E#8 &&& 0xF3#8 = 0x62#8 ∧
    0x6F#8 &&& 0xF3#8 = 0x63#8 := by decide

/-- StoreIsSeenByTheNextFetch: a store to each of the two bytes. -/
theorem witness_StoreIsSeenByTheNextFetch :
    operandAddress (.idx .r0) mixed = mixed.ip + 2#8 ∧ operandAddress (.idx .r3) mixed = mixed.ip + 3#8 ∧
    (next (exec (.store .r1 (.idx .r0)) mixed)).isSome = true ∧
    (next (exec (.store .r1 (.idx .r3)) mixed)).isSome = true := by decide

/-- AddStoresTheSumAndCarriesFrom256, SubStoresTheDifferenceAndCarriesOnBorrow, IncAndDecWrapWithCarry and
ShiftLeftDoubles: the carry just at and just below its bound. -/
theorem witness_carries :
    r0AndCarry (aluStart 0x91#8 0xFE#8 0x02#8) = some (0x00#8, true) ∧
    r0AndCarry (aluStart 0x91#8 0xFE#8 0x01#8) = some (0xFF#8, false) ∧
    r0AndCarry (aluStart 0xA1#8 0x01#8 0x02#8) = some (0xFF#8, true) ∧
    r0AndCarry (aluStart 0xA1#8 0x02#8 0x02#8) = some (0x00#8, false) ∧
    r1AndCarry (unaryStart 0xE3#8 0x80#8) = some (0x00#8, true) ∧
    r1AndCarry (unaryStart 0xE3#8 0x7F#8) = some (0xFE#8, false) := by decide

/-- BitwiseOperationsWorkBitByBit: its three clauses, at the highest bit. -/
theorem witness_BitwiseOperationsWorkBitByBit :
    (next (exec (.and .r1 (.const 0x80#8)) mixed)).map (fun t => t.regs.r1.getLsbD 7) = some true ∧
    (next (exec (.or .r1 (.const 0x80#8)) mixed)).map (fun t => t.regs.r1.getLsbD 7) = some true ∧
    (next (exec (.xor .r1 (.const 0x80#8)) mixed)).map (fun t => t.regs.r1.getLsbD 7) = some false := by decide

/-- RegisterInstructionsEmitThreeEvents: POP and another writer of a register. -/
theorem witness_RegisterInstructionsEmitThreeEvents :
    writtenRegister (.pop .r1) = some .r1 ∧ (next (exec (.pop .r1) mixed)).isSome = true ∧
    writtenRegister (.asl .r1) = some .r1 ∧ (next (exec (.asl .r1) mixed)).isSome = true := by decide

/-- AddToSelfIsShiftLeft. -/
theorem witness_AddToSelfIsShiftLeft :
    (next (exec (.add .r1 (.reg .r1)) mixed)).isSome = true ∧ (next (exec (.asl .r1) mixed)).isSome = true := by decide

/-- PushThenPopRestores, with SP at the bottom of memory too. -/
theorem witness_PushThenPopRestores :
    ((next (exec (.push .r1) mixed)).bind fun t => next (exec (.pop .r1) t)).isSome = true ∧
    ((next (exec (.push .r1) { mixed with sp := 0x00#8 })).bind fun t => next (exec (.pop .r1) t)).map State.sp =
      some 0x00#8 := by decide

/-- CallThenReturnComesBack, with the target in the stack cell too. -/
theorem witness_CallThenReturnComesBack :
    ((next (exec (.call (.reg .r1)) mixed)).bind fun t => next (exec .ret t)).isSome = true ∧
    ((next (exec (.call (.abs 0xBF#8)) mixed)).bind fun t => next (exec .ret t)).map State.ip = some 0x02#8 := by decide

/-- OnlyCompareWritesZero and OnlyRegisterWritersWriteCarry: an instruction that each is about. -/
theorem witness_OnlyWriters :
    (next (exec (.sub .r1 (.reg .r1)) mixed)).map State.zero = some true ∧
    writtenRegister (.store .r1 (.abs 0x05#8)) = none ∧
    (next (exec (.store .r1 (.abs 0x05#8)) mixed)).map State.carry = some true := by decide

/-- OnlyHaltEntersAndNothingLeavesHalted: its two clauses. -/
theorem witness_OnlyHaltEntersAndNothingLeavesHalted :
    (haltedState.halted = true ∧ (next (step haltedState)).isSome = true) ∧
    State.reset.halted = false ∧ (next (step State.reset)).map State.halted = some true := by decide

/-- NoStepWritesTheInterruptTable, EventsAnnounceEveryChange: a step that answers a next state, in each of the
three cases of a step. -/
theorem witness_stepsAnswerNext :
    (next (step haltedState)).isSome = true ∧ (next (step (held { writes := [.sp 1], completes := true }))).isSome = true ∧
    (next (step mixed)).isSome = true := by decide

/-- EveryStepKeepsTheInvariant: a state that meets it, running and held, and steps. -/
theorem witness_EveryStepKeepsTheInvariant :
    mixed.inv ∧ (next (step mixed)).isSome = true ∧ (held { writes := [.sp 1], completes := true }).inv ∧
    (next (step (held { writes := [.sp 1], completes := true }))).isSome = true := by
  unfold State.inv
  decide

/-- ResetMeetsTheInvariant: for each operation of the host a state that meets the invariant and an answer. -/
theorem witness_ResetMeetsTheInvariant :
    mixed.inv ∧ (next (hostReset mixed)).isSome = true ∧
    (next (hostRegister .setup 255 .random mixed)).isSome = true ∧
    (next (hostWrite (.memory 255 256) mixed)).isSome = true ∧
    (next (hostLoad [(0x05#8, 0x00#8), (0xFF#8, 0x01#8)] mixed)).isSome = true := by
  unfold State.inv
  decide

/-- LoaderWritesMemoryOnly: a state for each clause, and a cell the image gives and one it does not. -/
theorem witness_LoaderWritesMemoryOnly :
    (held { writes := [], completes := true }).interrupted = true ∧ mixed.interrupted = false ∧
    (next (hostLoad [(0x05#8, 0x00#8)] mixed)).map (fun t => (readMemory 0x05#8 t, readMemory 0xC0#8 t)) =
      some (0x00#8, 0x22#8) := by decide

/-- TheStreamNeverInfluencesTheMachine: a step and the events it appends. -/
theorem witness_TheStreamNeverInfluencesTheMachine :
    (next (step jmpState)).map State.events =
      some (jmpState.events ++ [.ipChanged 0x02#8, .ipChanged 0x2A#8, .stepCompleted]) := by decide

/-- HostResetReinitializes: a state for each clause. -/
theorem witness_HostResetReinitializes :
    (held { writes := [], completes := false }).interrupted = true ∧ haltedState.interrupted = false := by decide

/-- LastRegistrationWins: an id bound before, and another. -/
theorem witness_LastRegistrationWins :
    (next (hostRegister .setup 5 (.external 9) mixed)).map State.intTable = some [(5, .external 9), (6, .external 1)] ∧
    (0x06#8 : Byte) ≠ 0x05#8 := by decide

end Sys2Proof.Tests
end

namespace Sys2Proof.Machine

/-- Settles O5 (spec/10_state.md R10): the two laws of the clamp, that of its value and that of its carry. -/
theorem clampWrapsAndCarriesOutside0To255 : Obligations.ClampWrapsAndCarriesOutside0To255 :=
  fun r => ⟨clampValue_toNat r, clampCarry_eq_true_iff r⟩

end Sys2Proof.Machine

namespace Sys2Proof.Machine

/-! ## Two-operand arithmetic (spec/44_alu.md R130, R131) -/

/-! The three fields the decoder reads from the canonical word of a REG_MODE row (spec/30_encoding.md R61, R74). -/

section
variable {op : Nat} (ho : op < 16) (p : Reg) (src : Operand)
include ho

theorem opField_regModeWord : opField (opcodeByte op (regIndex p) (operandMode src)) = op :=
  opField_opcodeByte ho (regIndex_lt p) (operandMode_lt src)

theorem primaryField_regModeWord : primaryField (opcodeByte op (regIndex p) (operandMode src)) = p :=
  primaryField_opcodeByte p ho (operandMode_lt src)

theorem modeField_regModeWord :
    modeField (opcodeByte op (regIndex p) (operandMode src)) = operandMode src :=
  modeField_opcodeByte ho (regIndex_lt p) (operandMode_lt src)

end

theorem decode_addWord (p : Reg) (src : Operand) :
    decode (opcodeByte 0x9 (regIndex p) (operandMode src)) (operandByte src) = .add p src := by
  have ho : 0x9 < 16 := by decide
  simp [decode, opField_regModeWord ho, primaryField_regModeWord ho, modeField_regModeWord ho]

theorem decode_subWord (p : Reg) (src : Operand) :
    decode (opcodeByte 0xA (regIndex p) (operandMode src)) (operandByte src) = .sub p src := by
  have ho : 0xA < 16 := by decide
  simp [decode, opField_regModeWord ho, primaryField_regModeWord ho, modeField_regModeWord ho]

/-- The body's register holds the value stored; the frame around it writes no register. -/
theorem readRegister_storeRegister_inFrame (p : Reg) (v : Byte) (c : Bool) (s : State) :
    readRegister p (emit .stepCompleted (storeRegister p v c (advanceIp s))) = v := by
  simp [readRegister]

/-- An instruction whose body is one register write, whatever value and carry it writes, keeps the frame of R13. -/
theorem registerFrame_storeRegister_inFrame (p : Reg) (v : Byte) (c : Bool) (s : State) :
    RegisterFrame p s (emit .stepCompleted (storeRegister p v c (advanceIp s))) := by
  have hregs : SameRegistersBut p s (emit .stepCompleted (storeRegister p v c (advanceIp s))) := by
    intro r hr
    simp [readRegister, get_set_other _ _ hr]
  have hip : (emit .stepCompleted (storeRegister p v c (advanceIp s))).ip = s.ip + 2#8 := by simp
  exact ⟨rfl, hregs, fun _ => rfl, hip, rfl, rfl, rfl, rfl, rfl, rfl⟩

/-- What the shape shared by all five instructions does: the register and C get the two parts of the clamped raw
result of the operands as they were before the step, and the rest keeps its frame. -/
theorem aluBody_inFrame (op : Byte → Byte → Int) (p : Reg) (src : Operand) (s : State) :
    ∃ t, inFrame (aluBody op p src) s = .next t ∧
      readRegister p t = clampValue (op (readRegister p s) (operandValue src s)) ∧
      t.carry = clampCarry (op (readRegister p s) (operandValue src s)) ∧ RegisterFrame p s t := by
  refine ⟨_, inFrame_eq _ _, ?_⟩
  rw [aluBody, readRegister_advanceIp, operandValue_advanceIp]
  exact ⟨readRegister_storeRegister_inFrame .., rfl, registerFrame_storeRegister_inFrame ..⟩

/-- Settles O34 (spec/44_alu.md R130): the clamp of a sum of two bytes, which is never negative. -/
theorem addStoresTheSumAndCarriesFrom256 : Obligations.AddStoresTheSumAndCarriesFrom256 := by
  intro p src s
  obtain ⟨t, hexec, hreg, hcarry, hframe⟩ := aluBody_inFrame (fun x v => raw x + raw v) p src s
  refine ⟨decode_addWord p src, t, hexec, ?_, ?_, hframe⟩
  · have hvalue := clampValue_toNat (raw (readRegister p s) + raw (operandValue src s))
    rw [hreg]
    simp only [raw] at hvalue ⊢
    omega
  · rw [hcarry, clampCarry_eq_true_iff]
    simp only [raw]
    omega

/-- Settles O35 (spec/44_alu.md R131): the clamp of a difference of two bytes, which never exceeds 255. -/
theorem subStoresTheDifferenceAndCarriesOnBorrow : Obligations.SubStoresTheDifferenceAndCarriesOnBorrow := by
  intro p src s
  obtain ⟨t, hexec, hreg, hcarry, hframe⟩ := aluBody_inFrame (fun x v => raw x - raw v) p src s
  refine ⟨decode_subWord p src, t, hexec, ?_, ?_, hframe⟩
  · rw [hreg]
    exact clampValue_toNat _
  · have hbound := raw_lt (readRegister p s)
    rw [hcarry, clampCarry_eq_true_iff]
    simp only [raw] at hbound ⊢
    omega

end Sys2Proof.Machine

namespace Sys2Proof.Machine

/-! ## One-operand arithmetic (spec/45_unary.md R140, R141, R143) -/

/-! The words of the three rows (spec/30_encoding.md R66): on a literal opcode byte the decoder computes, and what
remains is the register read back from the operand byte. -/

theorem decode_incWord (r : Reg) : decode 0xE0#8 (regByte r) = .inc r :=
  congrArg Instr.inc (secondaryField_regByte r)

theorem decode_decWord (r : Reg) : decode 0xE1#8 (regByte r) = .dec r :=
  congrArg Instr.dec (secondaryField_regByte r)

theorem decode_aslWord (r : Reg) : decode 0xE3#8 (regByte r) = .asl r :=
  congrArg Instr.asl (secondaryField_regByte r)

/-! The carry of the clamp on the three raw results: only the end of the byte's range leaves 0 to 255. -/

theorem clampCarry_raw_add_one_iff (b : Byte) : clampCarry (raw b + 1) = true ↔ b = 0xFF#8 := by
  rw [clampCarry_eq_true_iff, ← BitVec.toNat_inj, BitVec.toNat_ofNat, raw]
  omega

theorem clampCarry_raw_sub_one_iff (b : Byte) : clampCarry (raw b - 1) = true ↔ b = 0x00#8 := by
  rw [clampCarry_eq_true_iff, ← BitVec.toNat_inj, BitVec.toNat_ofNat, raw]
  omega

theorem clampCarry_two_mul_raw_iff (b : Byte) : clampCarry (2 * raw b) = true ↔ 0x80 ≤ b.toNat := by
  rw [clampCarry_eq_true_iff, raw]
  omega

theorem clampValue_two_mul_raw_toNat (b : Byte) : (clampValue (2 * raw b)).toNat = 2 * b.toNat % 256 := by
  have hvalue := clampValue_toNat (2 * raw b)
  rw [raw] at hvalue ⊢
  omega

/-- What the shape shared by INC, DEC, ASL and ASR does: the register and C get the two parts of the clamped raw
result of the register as it was before the step, and the rest keeps its frame. -/
theorem unaryBody_inFrame (op : Byte → Int) (r : Reg) (s : State) :
    ∃ t, inFrame (unaryBody op r) s = .next t ∧ readRegister r t = clampValue (op (readRegister r s)) ∧
      t.carry = clampCarry (op (readRegister r s)) ∧ RegisterFrame r s t := by
  refine ⟨_, inFrame_eq _ _, ?_⟩
  rw [unaryBody, readRegister_advanceIp]
  exact ⟨readRegister_storeRegister_inFrame .., rfl, registerFrame_storeRegister_inFrame ..⟩

theorem exec_inc_next (r : Reg) (s : State) :
    ∃ t, exec (.inc r) s = .next t ∧ (readRegister r t).toNat = ((readRegister r s).toNat + 1) % 256 ∧
      (t.carry = true ↔ readRegister r s = 0xFF#8) ∧ RegisterFrame r s t := by
  obtain ⟨t, hexec, hreg, hcarry, hframe⟩ := unaryBody_inFrame (fun x => raw x + 1) r s
  refine ⟨t, hexec, ?_, ?_, hframe⟩
  · rw [hreg, clampValue_raw_add_one, BitVec.toNat_add, BitVec.toNat_ofNat]
  · rw [hcarry, clampCarry_raw_add_one_iff]

/-- Subtracting 1 is adding 255 modulo 256. -/
theorem exec_dec_next (r : Reg) (s : State) :
    ∃ t, exec (.dec r) s = .next t ∧ (readRegister r t).toNat = ((readRegister r s).toNat + 255) % 256 ∧
      (t.carry = true ↔ readRegister r s = 0x00#8) ∧ RegisterFrame r s t := by
  obtain ⟨t, hexec, hreg, hcarry, hframe⟩ := unaryBody_inFrame (fun x => raw x - 1) r s
  refine ⟨t, hexec, ?_, ?_, hframe⟩
  · rw [hreg, clampValue_raw_sub_one, BitVec.toNat_sub, BitVec.toNat_ofNat, Nat.add_comm]
  · rw [hcarry, clampCarry_raw_sub_one_iff]

/-- Settles O37 (spec/45_unary.md R140, R141): the clamp leaves 0 to 255 only from 0xFF up and from 0x00 down. -/
theorem incAndDecWrapWithCarry : Obligations.IncAndDecWrapWithCarry :=
  fun r s => ⟨decode_incWord r, decode_decWord r, exec_inc_next r s, exec_dec_next r s⟩

/-- Settles O39 (spec/45_unary.md R143): twice the byte leaves 0 to 255 exactly from 0x80 on. -/
theorem shiftLeftDoubles : Obligations.ShiftLeftDoubles := by
  intro r s
  obtain ⟨t, hexec, hreg, hcarry, hframe⟩ := unaryBody_inFrame (fun x => 2 * raw x) r s
  refine ⟨decode_aslWord r, t, hexec, ?_, ?_, hframe⟩
  · rw [hreg, clampValue_two_mul_raw_toNat]
  · rw [hcarry, clampCarry_two_mul_raw_iff]

end Sys2Proof.Machine

namespace Sys2Proof.Machine

/-! ## The decoder (spec/30_encoding.md R61 to R71) -/

/-! A field whose bits all lie under a row's mask is the field of the row's match (R75). -/

theorem extractLsb'_of_mask {b m k : Byte} (start len : Nat) (h : b &&& m = k)
    (hm : m.extractLsb' start len = BitVec.allOnes len) :
    b.extractLsb' start len = k.extractLsb' start len := by
  rw [← h, BitVec.extractLsb'_and, hm, BitVec.and_allOnes]

section
variable {b m k : Byte} (h : b &&& m = k)
include h

theorem opField_of_mask (hm : m.extractLsb' 4 4 = BitVec.allOnes 4) : opField b = opField k :=
  congrArg BitVec.toNat (extractLsb'_of_mask 4 4 h hm)

theorem modeField_of_mask (hm : m.extractLsb' 0 2 = BitVec.allOnes 2) : modeField b = modeField k :=
  congrArg BitVec.toNat (extractLsb'_of_mask 0 2 h hm)

theorem subField_of_mask (hm : m.extractLsb' 0 3 = BitVec.allOnes 3) : subField b = subField k :=
  congrArg BitVec.toNat (extractLsb'_of_mask 0 3 h hm)

theorem dirField_of_mask (hm : m.extractLsb' 0 1 = BitVec.allOnes 1) : dirField b = dirField k :=
  congrArg BitVec.toNat (extractLsb'_of_mask 0 1 h hm)

theorem primaryField_of_mask (hm : m.extractLsb' 2 2 = BitVec.allOnes 2) :
    primaryField b = primaryField k :=
  congrArg regOfBits (extractLsb'_of_mask 2 2 h hm)

end

/-! The classes of opcode bytes behind `halted` and the Faults, by their fields: facts about the 256 bytes. -/

theorem haltByte_iff (b : Byte) : b &&& 0xF0#8 = 0x00#8 ↔ opField b = 0 := by
  revert b; decide

theorem unaryByte_iff (b : Byte) : b &&& 0xF0#8 = 0xE0#8 ↔ opField b = 14 := by
  revert b; decide

theorem storeInvalidByte_iff (b : Byte) : b &&& 0xF2#8 = 0x80#8 ↔ opField b = 8 ∧ modeField b < 2 := by
  revert b; decide

theorem unaryReserved5Byte_iff (b : Byte) : b &&& 0xF7#8 = 0xE5#8 ↔ opField b = 14 ∧ subField b = 5 := by
  revert b; decide

theorem unaryReserved67Byte_iff (b : Byte) : b &&& 0xF6#8 = 0xE6#8 ↔ opField b = 14 ∧ 6 ≤ subField b := by
  revert b; decide

/-! What the decoder answers, by operation code. -/

section
variable {b0 : Byte} (b1 : Byte)

theorem decode_halt (h : opField b0 = 0) : decode b0 b1 = .halt := by simp only [decode, h]
theorem decode_int (h : opField b0 = 1) : decode b0 b1 = .int b1 := by simp only [decode, h]
theorem decode_jmp (h : opField b0 = 3) : decode b0 b1 = .jmp b1 := by simp only [decode, h]
theorem decode_call (h : opField b0 = 4) : decode b0 b1 = .call (operandOf (modeField b0) b1) := by
  simp only [decode, h]
theorem decode_ret (h : opField b0 = 5) : decode b0 b1 = .ret := by simp only [decode, h]
theorem decode_condJumpOp (h : opField b0 = 6) : decode b0 b1 = decodeCondJump b0 b1 := by simp only [decode, h]
theorem decode_storeOp (h : opField b0 = 8) : decode b0 b1 = decodeStore b0 b1 := by simp only [decode, h]
theorem decode_unaryOp (h : opField b0 = 14) : decode b0 b1 = decodeUnary b0 b1 := by simp only [decode, h]
theorem decode_stackOp (h : opField b0 = 15) : decode b0 b1 = decodeStack b0 := by simp only [decode, h]

end

/-- The rows of the opcode table in the format REG_MODE (R75): operation code and instruction. -/
inductive RegModeRow : Nat → (Reg → Operand → Instr) → Prop where
  | cmp : RegModeRow 0x2 .cmp
  | load : RegModeRow 0x7 .load
  | add : RegModeRow 0x9 .add
  | sub : RegModeRow 0xA .sub
  | and : RegModeRow 0xB .and
  | or : RegModeRow 0xC .or
  | xor : RegModeRow 0xD .xor

theorem decode_regModeRow {op : Nat} {mk : Reg → Operand → Instr} (row : RegModeRow op mk) {b0 : Byte} (b1 : Byte)
    (h : opField b0 = op) : decode b0 b1 = mk (primaryField b0) (operandOf (modeField b0) b1) := by
  cases row <;> simp only [decode, h]

/-- The canonical word of a REG_MODE row (R74). -/
theorem decode_regModeWord {op : Nat} {mk : Reg → Operand → Instr} (row : RegModeRow op mk) (p : Reg)
    (src : Operand) : decode (opcodeByte op (regIndex p) (operandMode src)) (operandByte src) = mk p src := by
  have ho : op < 16 := by cases row <;> decide
  rw [decode_regModeRow row _ (opField_regModeWord ho p src), primaryField_regModeWord ho,
    modeField_regModeWord ho, operandOf_operandByte]

theorem readsOperand_operandOf (b0 b1 : Byte) : ReadsOperand b0 b1 (operandOf (modeField b0) b1) := by
  have hlt : b0.toNat % 4 < 4 := Nat.mod_lt _ (by decide)
  rw [modeField_eq]
  unfold ReadsOperand
  generalize b0.toNat % 4 = m at hlt
  match m, hlt with
  | 0, _ => exact ⟨rfl, regIndex_secondaryField b1⟩
  | 1, _ => exact ⟨rfl, rfl⟩
  | 2, _ => exact ⟨rfl, rfl⟩
  | 3, _ => exact ⟨rfl, regIndex_secondaryField b1⟩

theorem readsRegMode_of_row {op : Nat} {mk : Reg → Operand → Instr} (row : RegModeRow op mk) {b0 b1 : Byte}
    (h : opField b0 = op) : ReadsRegMode mk b0 b1 :=
  ⟨_, _, decode_regModeRow row b1 h, regIndex_primaryField b0, readsOperand_operandOf b0 b1⟩

/-! The rows told apart by more than the operation code (R65 to R67, R69). -/

section
variable {b0 : Byte} (b1 : Byte)

theorem decode_jz (ho : opField b0 = 6) (hm : modeField b0 = 0) : decode b0 b1 = .jz b1 := by
  rw [decode_condJumpOp b1 ho]; simp only [decodeCondJump, hm]

theorem decode_jnz (ho : opField b0 = 6) (hm : modeField b0 = 1) : decode b0 b1 = .jnz b1 := by
  rw [decode_condJumpOp b1 ho]; simp only [decodeCondJump, hm]

theorem decode_jc (ho : opField b0 = 6) (hm : modeField b0 = 2) : decode b0 b1 = .jc b1 := by
  rw [decode_condJumpOp b1 ho]; simp only [decodeCondJump, hm]

theorem decode_jnc (ho : opField b0 = 6) (hm : modeField b0 = 3) : decode b0 b1 = .jnc b1 := by
  rw [decode_condJumpOp b1 ho]; simp only [decodeCondJump, hm]

theorem decode_storeAbs (ho : opField b0 = 8) (hm : modeField b0 = 2) :
    decode b0 b1 = .store (primaryField b0) (.abs b1) := by
  rw [decode_storeOp b1 ho]; simp only [decodeStore, hm]

theorem decode_storeIdx (ho : opField b0 = 8) (hm : modeField b0 = 3) :
    decode b0 b1 = .store (primaryField b0) (.idx (secondaryField b1)) := by
  rw [decode_storeOp b1 ho]; simp only [decodeStore, hm]

theorem decode_storeInvalid (h : b0 &&& 0xF2#8 = 0x80#8) : decode b0 b1 = .storeInvalid b0 := by
  obtain ⟨ho, hm⟩ := (storeInvalidByte_iff b0).mp h
  rw [decode_storeOp b1 ho, decodeStore]
  generalize modeField b0 = m at hm
  match m with
  | 0 => rfl
  | 1 => rfl

theorem decode_unaryReserved5 (h : b0 &&& 0xF7#8 = 0xE5#8) : decode b0 b1 = .unaryReserved5 b0 := by
  obtain ⟨ho, hsub⟩ := (unaryReserved5Byte_iff b0).mp h
  rw [decode_unaryOp b1 ho]; simp only [decodeUnary, hsub]

theorem decode_unaryReserved67 (h : b0 &&& 0xF6#8 = 0xE6#8) : decode b0 b1 = .unaryReserved67 b0 := by
  obtain ⟨ho, hsub⟩ := (unaryReserved67Byte_iff b0).mp h
  rw [decode_unaryOp b1 ho]
  unfold decodeUnary
  split
  case h_7 => rfl
  all_goals omega

theorem decode_push (ho : opField b0 = 15) (hd : dirField b0 = 0) : decode b0 b1 = .push (primaryField b0) := by
  rw [decode_stackOp b1 ho]; simp only [decodeStack, hd]

theorem decode_pop (ho : opField b0 = 15) (hd : dirField b0 = 1) : decode b0 b1 = .pop (primaryField b0) := by
  rw [decode_stackOp b1 ho]; simp only [decodeStack, hd]

end

/-- The rows of UNARY that are instructions (R66): sub-operation and instruction. -/
inductive UnaryRow : Nat → (Reg → Instr) → Prop where
  | inc : UnaryRow 0 .inc
  | dec : UnaryRow 1 .dec
  | not : UnaryRow 2 .not
  | asl : UnaryRow 3 .asl
  | asr : UnaryRow 4 .asr

theorem decode_unaryRow {sub : Nat} {mk : Reg → Instr} (row : UnaryRow sub mk) {b0 : Byte} (b1 : Byte)
    (ho : opField b0 = 14) (hsub : subField b0 = sub) : decode b0 b1 = mk (secondaryField b1) := by
  rw [decode_unaryOp b1 ho]
  cases row <;> simp only [decodeUnary, hsub]

/-- The canonical word of a UNARY row (R74). -/
theorem decode_unaryWord {sub : Nat} {mk : Reg → Instr} (row : UnaryRow sub mk) {b0 : Byte} (r : Reg)
    (ho : opField b0 = 14) (hsub : subField b0 = sub) : decode b0 (regByte r) = mk r := by
  rw [decode_unaryRow row _ ho hsub, secondaryField_regByte]

theorem readsSecondary_of_row {sub : Nat} {mk : Reg → Instr} (row : UnaryRow sub mk) {b0 b1 : Byte}
    (ho : opField b0 = 14) (hsub : subField b0 = sub) : ReadsSecondary mk b0 b1 :=
  ⟨_, decode_unaryRow row b1 ho hsub, regIndex_secondaryField b1⟩

/-- Settles O2 (spec/30_encoding.md R68, R75): each row's mask fixes the fields the decoder tells the row by. -/
theorem everyBytePairIsItsTableRow : Obligations.EveryBytePairIsItsTableRow := fun b0 b1 =>
  ⟨fun h => decode_halt b1 (opField_of_mask h rfl),
   fun h => decode_int b1 (opField_of_mask h rfl),
   fun h => readsRegMode_of_row .cmp (opField_of_mask h rfl),
   fun h => decode_jmp b1 (opField_of_mask h rfl),
   fun h => ⟨_, decode_call b1 (opField_of_mask h rfl), readsOperand_operandOf b0 b1⟩,
   fun h => decode_ret b1 (opField_of_mask h rfl),
   fun h => decode_jz b1 (opField_of_mask h rfl) (modeField_of_mask h rfl),
   fun h => decode_jnz b1 (opField_of_mask h rfl) (modeField_of_mask h rfl),
   fun h => decode_jc b1 (opField_of_mask h rfl) (modeField_of_mask h rfl),
   fun h => decode_jnc b1 (opField_of_mask h rfl) (modeField_of_mask h rfl),
   fun h => readsRegMode_of_row .load (opField_of_mask h rfl),
   fun h => ⟨_, decode_storeAbs b1 (opField_of_mask h rfl) (modeField_of_mask h rfl), regIndex_primaryField b0⟩,
   fun h => ⟨_, _, decode_storeIdx b1 (opField_of_mask h rfl) (modeField_of_mask h rfl), regIndex_primaryField b0,
     regIndex_secondaryField b1⟩,
   decode_storeInvalid b1,
   fun h => readsRegMode_of_row .add (opField_of_mask h rfl),
   fun h => readsRegMode_of_row .sub (opField_of_mask h rfl),
   fun h => readsRegMode_of_row .and (opField_of_mask h rfl),
   fun h => readsRegMode_of_row .or (opField_of_mask h rfl),
   fun h => readsRegMode_of_row .xor (opField_of_mask h rfl),
   fun h => readsSecondary_of_row .inc (opField_of_mask h rfl) (subField_of_mask h rfl),
   fun h => readsSecondary_of_row .dec (opField_of_mask h rfl) (subField_of_mask h rfl),
   fun h => readsSecondary_of_row .not (opField_of_mask h rfl) (subField_of_mask h rfl),
   fun h => readsSecondary_of_row .asl (opField_of_mask h rfl) (subField_of_mask h rfl),
   fun h => readsSecondary_of_row .asr (opField_of_mask h rfl) (subField_of_mask h rfl),
   decode_unaryReserved5 b1,
   decode_unaryReserved67 b1,
   fun h => ⟨_, decode_push b1 (opField_of_mask h rfl) (dirField_of_mask h rfl), regIndex_primaryField b0⟩,
   fun h => ⟨_, decode_pop b1 (opField_of_mask h rfl) (dirField_of_mask h rfl), regIndex_primaryField b0⟩⟩

/-! The canonical words of the other rows (R74). -/

theorem decode_callWord (src : Operand) {b0 : Byte} (h : b0 &&& 0xF3#8 = opcodeByte 0x4 0 (operandMode src)) :
    decode b0 (operandByte src) = .call src := by
  have ho : opField b0 = 4 := (opField_of_mask h rfl).trans (opField_regModeWord (by decide) .r0 src)
  have hm : modeField b0 = operandMode src :=
    (modeField_of_mask h rfl).trans (modeField_regModeWord (by decide) .r0 src)
  rw [decode_call _ ho, hm, operandOf_operandByte]

theorem decode_storeWord (p : Reg) (dst : Dest) :
    decode (opcodeByte 0x8 (regIndex p) (destMode dst)) (destByte dst) = .store p dst := by
  have hlt : destMode dst < 4 := by cases dst <;> simp [destMode]
  have ho := opField_opcodeByte (by decide : 8 < 16) (regIndex_lt p) hlt
  have hp := primaryField_opcodeByte p (by decide : 8 < 16) hlt
  have hm := modeField_opcodeByte (by decide : 8 < 16) (regIndex_lt p) hlt
  cases dst with
  | abs a => rw [decode_storeAbs _ ho hm, hp, destByte]
  | idx r => rw [decode_storeIdx _ ho hm, hp, destByte, secondaryField_regByte]

/-! The words of PUSH and POP, whatever `b0[1]` and the operand byte hold: the mask 0xFD leaves the other fields. -/

section
variable (p : Reg) {b0 : Byte} {dir : Nat} (hdir : dir < 2) (h : b0 &&& 0xFD#8 = opcodeByte 0xF (regIndex p) dir)
include hdir h

theorem opField_stackWord : opField b0 = 15 :=
  (opField_of_mask h rfl).trans (opField_opcodeByte (by decide) (regIndex_lt p) (by omega))

theorem primaryField_stackWord : primaryField b0 = p :=
  (primaryField_of_mask h rfl).trans (primaryField_opcodeByte p (by decide) (by omega))

theorem dirField_stackWord : dirField b0 = dir := by
  rw [dirField_of_mask h rfl, dirField_eq, opcodeByte_toNat (by decide) (regIndex_lt p) (by omega)]
  omega

end

theorem decode_pushWord (p : Reg) {b0 : Byte} (b1 : Byte) (h : b0 &&& 0xFD#8 = opcodeByte 0xF (regIndex p) 0) :
    decode b0 b1 = .push p := by
  have hdir : 0 < 2 := by decide
  rw [decode_push b1 (opField_stackWord p hdir h) (dirField_stackWord p hdir h), primaryField_stackWord p hdir h]

theorem decode_popWord (p : Reg) {b0 : Byte} (b1 : Byte) (h : b0 &&& 0xFD#8 = opcodeByte 0xF (regIndex p) 1) :
    decode b0 b1 = .pop p := by
  have hdir : 1 < 2 := by decide
  rw [decode_pop b1 (opField_stackWord p hdir h) (dirField_stackWord p hdir h), primaryField_stackWord p hdir h]

/-! A canonical opcode byte has 0 in the bits its row does not read, and so passes the row's mask unchanged. -/

theorem opcodeByte_and_0xF3 {m : Nat} (hm : m < 4) : opcodeByte 0x4 0 m &&& 0xF3#8 = opcodeByte 0x4 0 m := by
  interval_cases m <;> rfl

theorem opcodeByte_and_0xFD (p : Reg) {dir : Nat} (hdir : dir < 2) :
    opcodeByte 0xF (regIndex p) dir &&& 0xFD#8 = opcodeByte 0xF (regIndex p) dir := by
  cases p <;> interval_cases dir <;> rfl

theorem decodeBytes_word {b0 b1 : Byte} {i : Instr} (h : decode b0 b1 = i) (rest : List Byte) :
    decodeBytes ([b0, b1] ++ rest) = .ok (i, rest) := by
  rw [← h]; rfl

/-- Settles O1 (spec/30_encoding.md R60, R71, R74): row by row, the encoder's two bytes are a word that decodes to
the instruction; a reserved row needs its byte to be of the row's class. -/
theorem decodeInvertsEncode : Obligations.DecodeInvertsEncode := by
  intro i rest hwf
  cases i with
  | halt => exact decodeBytes_word (decode_halt _ rfl) rest
  | int n => exact decodeBytes_word (decode_int n rfl) rest
  | cmp p src => exact decodeBytes_word (decode_regModeWord .cmp p src) rest
  | jmp t => exact decodeBytes_word (decode_jmp t rfl) rest
  | call src => exact decodeBytes_word (decode_callWord src (opcodeByte_and_0xF3 (operandMode_lt src))) rest
  | ret => exact decodeBytes_word (decode_ret _ rfl) rest
  | jz t => exact decodeBytes_word (decode_jz t rfl rfl) rest
  | jnz t => exact decodeBytes_word (decode_jnz t rfl rfl) rest
  | jc t => exact decodeBytes_word (decode_jc t rfl rfl) rest
  | jnc t => exact decodeBytes_word (decode_jnc t rfl rfl) rest
  | load p src => exact decodeBytes_word (decode_regModeWord .load p src) rest
  | store p dst => exact decodeBytes_word (decode_storeWord p dst) rest
  | storeInvalid b0 => exact decodeBytes_word (decode_storeInvalid _ (beq_iff_eq.mp hwf)) rest
  | add p src => exact decodeBytes_word (decode_regModeWord .add p src) rest
  | sub p src => exact decodeBytes_word (decode_regModeWord .sub p src) rest
  | and p src => exact decodeBytes_word (decode_regModeWord .and p src) rest
  | or p src => exact decodeBytes_word (decode_regModeWord .or p src) rest
  | xor p src => exact decodeBytes_word (decode_regModeWord .xor p src) rest
  | inc r => exact decodeBytes_word (decode_unaryWord .inc r rfl rfl) rest
  | dec r => exact decodeBytes_word (decode_unaryWord .dec r rfl rfl) rest
  | not r => exact decodeBytes_word (decode_unaryWord .not r rfl rfl) rest
  | asl r => exact decodeBytes_word (decode_unaryWord .asl r rfl rfl) rest
  | asr r => exact decodeBytes_word (decode_unaryWord .asr r rfl rfl) rest
  | unaryReserved5 b0 => exact decodeBytes_word (decode_unaryReserved5 _ (beq_iff_eq.mp hwf)) rest
  | unaryReserved67 b0 => exact decodeBytes_word (decode_unaryReserved67 _ (beq_iff_eq.mp hwf)) rest
  | push p => exact decodeBytes_word (decode_pushWord p _ (opcodeByte_and_0xFD p (by decide))) rest
  | pop p => exact decodeBytes_word (decode_popWord p _ (opcodeByte_and_0xFD p (by decide))) rest

/-! The reserved rows (R69): only STORE and UNARY answer one, and it keeps the opcode byte it was read from. -/

theorem decodeStore_wellFormed {b0 : Byte} (b1 : Byte) (ho : opField b0 = 8) :
    (decodeStore b0 b1).wellFormed = true := by
  have hclass := storeInvalidByte_iff b0
  unfold decodeStore
  split
  · next hm => exact beq_iff_eq.mpr (hclass.mpr ⟨ho, by omega⟩)
  · next hm => exact beq_iff_eq.mpr (hclass.mpr ⟨ho, by omega⟩)
  · rfl
  · rfl

theorem decodeUnary_wellFormed {b0 : Byte} (b1 : Byte) (ho : opField b0 = 14) :
    (decodeUnary b0 b1).wellFormed = true := by
  unfold decodeUnary
  split
  case h_6 hsub => exact beq_iff_eq.mpr ((unaryReserved5Byte_iff b0).mpr ⟨ho, hsub⟩)
  case h_7 h0 h1 h2 h3 h4 h5 => exact beq_iff_eq.mpr ((unaryReserved67Byte_iff b0).mpr ⟨ho, by grind⟩)
  all_goals rfl

/-- The bytes of a word that decodes to a reserved row: which row it is, and that it keeps b0. -/
theorem decode_reserved {b0 b1 : Byte} (hr : (decode b0 b1).isReserved = true) :
    decode b0 b1 = .storeInvalid b0 ∨ decode b0 b1 = .unaryReserved5 b0 ∨ decode b0 b1 = .unaryReserved67 b0 := by
  revert hr
  unfold decode
  split
  case h_7 => unfold decodeCondJump; split <;> nofun
  case h_9 => unfold decodeStore; split <;> simp [Instr.isReserved]
  case h_15 => unfold decodeUnary; split <;> simp [Instr.isReserved]
  case h_16 => unfold decodeStack; split <;> nofun
  all_goals nofun

/-- Settles O3 (spec/30_encoding.md R69, R70): only STORE and UNARY answer a reserved row, each with a byte of its
class. -/
theorem decodedInstructionsAreWellFormed : Obligations.DecodedInstructionsAreWellFormed := by
  intro b0 b1
  unfold decode
  split
  case h_9 ho => exact decodeStore_wellFormed b1 ho
  case h_15 ho => exact decodeUnary_wellFormed b1 ho
  case h_7 => unfold decodeCondJump; split <;> rfl
  case h_16 => unfold decodeStack; split <;> rfl
  all_goals rfl

/-- Settles O4 (spec/30_encoding.md R74): seven fixed words, each decoded by computation. -/
theorem exampleWordsDecode : Obligations.ExampleWordsDecode := by
  unfold Obligations.ExampleWordsDecode
  decide

end Sys2Proof.Machine

namespace Sys2Proof.Machine

/-! ## What a transition announces on the notification stream (spec/10_state.md R28) -/

/-- The machine with another notification stream. -/
def State.withEvents (s : State) (other : List Event) : State := { s with events := other }

@[simp] theorem emit_withEvents (e : Event) (s : State) (other : List Event) :
    emit e (s.withEvents other) = (emit e s).withEvents (other ++ [e]) := rfl

/-- From `s`, the transition `f` appends exactly `new`: it does so on any stream, without reading it; an observer
who takes `new` at its word follows all that `f` does; and no `step-completed` is among them. -/
structure Announces (f : State → State) (s : State) (new : List Event) : Prop where
  blind : ∀ other, f (s.withEvents other) = (f s).withEvents (other ++ new)
  mirrors : new.foldl Mirror.observe s.mirror = (f s).mirror
  silent : .stepCompleted ∉ new

namespace Announces

variable {f g : State → State} {s : State} {new new' : List Event}

theorem events_eq (h : Announces f s new) : (f s).events = s.events ++ new :=
  congrArg State.events (h.blind s.events)

/-- One transition after another announces the one's events and then the other's. -/
theorem comp (hf : Announces f s new) (hg : Announces g (f s) new') :
    Announces (fun u => g (f u)) s (new ++ new') where
  blind other := by simp only [hf.blind, hg.blind, List.append_assoc]
  mirrors := by rw [List.foldl_append, hf.mirrors, hg.mirrors]
  silent := by simp [hf.silent, hg.silent]

/-- A transition that does in `s` what another does, whatever the stream, announces what that one does. -/
theorem congr (hf : Announces f s new) (h : ∀ other, g (s.withEvents other) = f (s.withEvents other)) :
    Announces g s new := by
  have hs : g s = f s := h s.events
  exact ⟨fun other => by rw [h, hf.blind, hs], hs ▸ hf.mirrors, hf.silent⟩

/-- A transition of the status only, which has no events (10_state R23, R24). -/
theorem of_silent (blind : ∀ other, f (s.withEvents other) = (f s).withEvents other)
    (same : (f s).mirror = s.mirror) : Announces f s [] :=
  ⟨by simpa using blind, same.symm, List.not_mem_nil⟩

end Announces

/-! The guarded writes announce all they write (10_state R13, R15, R18, R20; 20_memory R42). -/

section
variable (s : State)

theorem id_announces : Announces (fun u => u) s [] := .of_silent (fun _ => rfl) rfl

theorem writeMemory_announces (a : Byte) (v : Int) :
    Announces (writeMemory a v) s [.memoryChanged a (clampValue v), .memoryChangedAt a (clampValue v)] :=
  ⟨fun other => by simp [writeMemory, emit, State.withEvents], rfl, by simp⟩

theorem storeRegister_announces (i : Reg) (v : Byte) (c : Bool) :
    Announces (storeRegister i v c) s [.carryFlagChanged c, .registerChanged i v, .registerChangedAt i v] :=
  ⟨fun other => by simp [storeRegister, writeCarryFlag, emit, State.withEvents], rfl, by simp⟩

theorem writeRegister_announces (i : Reg) (v : Int) : Announces (writeRegister i v) s
    [.carryFlagChanged (clampCarry v), .registerChanged i (clampValue v), .registerChangedAt i (clampValue v)] :=
  storeRegister_announces s i (clampValue v) (clampCarry v)

theorem writeIp_announces (v : Int) : Announces (writeIp v) s [.ipChanged (clampValue v)] :=
  ⟨fun _ => rfl, rfl, by simp⟩

theorem writeSp_announces (v : Int) : Announces (writeSp v) s [.spChanged (clampValue v)] :=
  ⟨fun _ => rfl, rfl, by simp⟩

theorem writeZeroFlag_announces (b : Bool) : Announces (writeZeroFlag b) s [.zeroFlagChanged b] :=
  ⟨fun _ => rfl, rfl, by simp⟩

theorem writeCarryFlag_announces (b : Bool) : Announces (writeCarryFlag b) s [.carryFlagChanged b] :=
  ⟨fun _ => rfl, rfl, by simp⟩

/-- A handler's access is one of the guarded writes, or nothing; which one does not depend on the state. -/
theorem handlerWrite_announces (w : GuardedWrite) : ∃ new, Announces (handlerWrite · w) s new := by
  cases w with
  | memory a v =>
    cases h : byteOfInt a with
    | none => exact ⟨_, (id_announces s).congr fun _ => by simp [handlerWrite, guardedWrite, h]⟩
    | some a => exact ⟨_, (writeMemory_announces s a v).congr fun _ => by simp [handlerWrite, guardedWrite, h]⟩
  | register i v =>
    cases h : regOfInt i with
    | none => exact ⟨_, (id_announces s).congr fun _ => by simp [handlerWrite, guardedWrite, h]⟩
    | some i => exact ⟨_, (writeRegister_announces s i v).congr fun _ => by simp [handlerWrite, guardedWrite, h]⟩
  | ip v => exact ⟨_, writeIp_announces s v⟩
  | sp v => exact ⟨_, writeSp_announces s v⟩
  | zero b =>
    cases h : bitOfInt b with
    | none => exact ⟨_, (id_announces s).congr fun _ => by simp [handlerWrite, guardedWrite, h]⟩
    | some b => exact ⟨_, (writeZeroFlag_announces s b).congr fun _ => by simp [handlerWrite, guardedWrite, h]⟩
  | carry b =>
    cases h : bitOfInt b with
    | none => exact ⟨_, (id_announces s).congr fun _ => by simp [handlerWrite, guardedWrite, h]⟩
    | some b => exact ⟨_, (writeCarryFlag_announces s b).congr fun _ => by simp [handlerWrite, guardedWrite, h]⟩

end

theorem handlerWrites_announce (ws : List GuardedWrite) (s : State) :
    ∃ new, Announces (fun u => ws.foldl handlerWrite u) s new := by
  induction ws generalizing s with
  | nil => exact ⟨_, id_announces s⟩
  | cons w ws ih =>
    obtain ⟨new, hw⟩ := handlerWrite_announces s w
    obtain ⟨new', hws⟩ := ih (handlerWrite s w)
    exact ⟨_, hw.comp hws⟩

/-- Recording what a handler has still to do, and whether it is in flight, is silent. -/
theorem setHandler_announces (i : Bool) (p : Option Pending) (s : State) :
    Announces (fun u => { u with interrupted := i, pending := p }) s [] :=
  .of_silent (fun _ => rfl) rfl

theorem setPending_announces (p : Option Pending) (s : State) : Announces (fun u => { u with pending := p }) s [] :=
  .of_silent (fun _ => rfl) rfl

theorem completeHandler_announces (s : State) : Announces completeHandler s [] := setHandler_announces false none s

theorem performResponse_announces (r : HandlerResponse) (s : State) :
    ∃ new, Announces (performResponse r) s new := by
  obtain ⟨inCall, completion⟩ := r
  obtain ⟨new, hw⟩ := handlerWrites_announce inCall s
  cases completion with
  | withinCall => exact ⟨_, hw.comp (completeHandler_announces _)⟩
  | later ws => exact ⟨_, hw.comp (setPending_announces _ _)⟩
  | never ws => exact ⟨_, hw.comp (setPending_announces _ _)⟩

/-- What a handler reads (60_exceptions R167) does not hold the stream. -/
theorem responseOf_withEvents (h : Handler) (s : State) (other : List Event) :
    responseOf h (s.withEvents other) = responseOf h s := by
  cases h <;> rfl

theorem dispatch_of_none {id : Byte} {s : State} (h : lookupKey id.toNat s.intTable = none) : dispatch id s = s := by
  simp only [dispatch, h]

theorem dispatch_of_some {id : Byte} {s : State} {k : Handler} (h : lookupKey id.toNat s.intTable = some k) :
    dispatch id s = performResponse (responseOf k (enterHandler s)) (nextTicket (enterHandler s)) := by
  simp only [dispatch, h]

theorem dispatch_announces (id : Byte) (s : State) : ∃ new, Announces (dispatch id) s new := by
  cases h : lookupKey id.toNat s.intTable with
  | none => exact ⟨_, (id_announces s).congr fun other => dispatch_of_none h⟩
  | some k =>
    have hentry : Announces (fun u => nextTicket (enterHandler u)) s [] := .of_silent (fun _ => rfl) rfl
    obtain ⟨new, hr⟩ := performResponse_announces (responseOf k (enterHandler s)) (nextTicket (enterHandler s))
    refine ⟨_, (hentry.comp hr).congr fun other => ?_⟩
    have hresponse := responseOf_withEvents k (enterHandler s) other
    exact (dispatch_of_some (s := s.withEvents other) h).trans (congrArg (performResponse · _) hresponse)

theorem handlerMove_announces (s : State) : ∃ new, Announces handlerMove s new := by
  match h : s.pending with
  | none =>
    exact ⟨_, (id_announces s).congr fun other => by simp only [handlerMove, State.withEvents, h]⟩
  | some { writes := w :: ws, completes := c } =>
    obtain ⟨new, hw⟩ := handlerWrite_announces s w
    exact ⟨_, (hw.comp (setPending_announces (some { writes := ws, completes := c }) _)).congr fun other => by
      simp only [handlerMove, State.withEvents, h]⟩
  | some { writes := [], completes := true } =>
    exact ⟨_, (completeHandler_announces s).congr fun other => by simp only [handlerMove, State.withEvents, h]⟩
  | some { writes := [], completes := false } =>
    exact ⟨_, (id_announces s).congr fun other => by simp only [handlerMove, State.withEvents, h]⟩

/-! The bodies of the instructions: guarded writes of values read in the state before, which are the same
whatever the stream. -/

theorem operandValue_withEvents (src : Operand) (s : State) (other : List Event) :
    operandValue src (s.withEvents other) = operandValue src s := by
  cases src <;> rfl

theorem operandAddress_withEvents (dst : Dest) (s : State) (other : List Event) :
    operandAddress dst (s.withEvents other) = operandAddress dst s := by
  cases dst <;> rfl

theorem readRegister_withEvents (r : Reg) (s : State) (other : List Event) :
    readRegister r (s.withEvents other) = readRegister r s := rfl

section
variable (s : State)

theorem pushByte_announces (b : Byte) : ∃ new, Announces (pushByte b) s new :=
  ⟨_, ((writeMemory_announces s s.sp (raw b)).comp (writeSp_announces _ (raw s.sp - 1))).congr fun _ => rfl⟩

theorem raiseSp_announces : Announces raiseSp s [.spChanged (clampValue (raw s.sp + 1))] :=
  (writeSp_announces s (raw s.sp + 1)).congr fun _ => rfl

theorem aluBody_announces (op : Byte → Byte → Int) (p : Reg) (src : Operand) :
    ∃ new, Announces (aluBody op p src) s new :=
  ⟨_, (writeRegister_announces s p (op (readRegister p s) (operandValue src s))).congr fun _ => by
    simp only [aluBody, operandValue_withEvents, readRegister_withEvents]⟩

theorem unaryBody_announces (op : Byte → Int) (r : Reg) : ∃ new, Announces (unaryBody op r) s new :=
  ⟨_, (writeRegister_announces s r (op (readRegister r s))).congr fun _ => rfl⟩

theorem complementBody_announces (r : Reg) : ∃ new, Announces (complementBody r) s new :=
  ⟨_, (storeRegister_announces s r (~~~(readRegister r s)) Config.notCarry).congr fun _ => rfl⟩

theorem loadBody_announces (p : Reg) (src : Operand) : ∃ new, Announces (loadBody p src) s new :=
  ⟨_, (writeRegister_announces s p (raw (operandValue src s))).congr fun _ => by
    simp only [loadBody, operandValue_withEvents]⟩

theorem storeBody_announces (p : Reg) (dst : Dest) : ∃ new, Announces (storeBody p dst) s new :=
  ⟨_, (writeMemory_announces s (operandAddress dst s) (raw (readRegister p s))).congr fun _ => by
    simp only [storeBody, operandAddress_withEvents, readRegister_withEvents]⟩

theorem compareBody_announces (p : Reg) (src : Operand) : ∃ new, Announces (compareBody p src) s new :=
  ⟨_, (writeZeroFlag_announces s (compareZero (readRegister p s) (operandValue src s))).congr fun _ => by
    simp only [compareBody, operandValue_withEvents, readRegister_withEvents]⟩

theorem jumpIf_announces {cond : State → Bool} (hcond : ∀ other, cond (s.withEvents other) = cond s) (t : Byte) :
    ∃ new, Announces (jumpIf cond t) s new := by
  cases h : cond s with
  | true => exact ⟨_, (writeIp_announces s (raw t)).congr fun other => by simp [jumpIf, hcond, h]⟩
  | false => exact ⟨_, (id_announces s).congr fun other => by simp [jumpIf, hcond, h]⟩

theorem callBody_announces (src : Operand) : ∃ new, Announces (callBody src) s new := by
  obtain ⟨new, hpush⟩ := pushByte_announces s s.ip
  exact ⟨_, (hpush.comp (writeIp_announces _ (raw (operandValue src s)))).congr fun other => by
    simp only [callBody, operandValue_withEvents]; rfl⟩

theorem returnBody_announces : ∃ new, Announces returnBody s new :=
  ⟨_, ((raiseSp_announces s).comp (writeIp_announces _ (raw (stackByte (raiseSp s))))).congr fun _ => rfl⟩

theorem pushBody_announces (p : Reg) : ∃ new, Announces (pushBody p) s new := by
  obtain ⟨new, hpush⟩ := pushByte_announces s (readRegister p s)
  exact ⟨new, hpush.congr fun _ => rfl⟩

theorem popBody_announces (p : Reg) : ∃ new, Announces (popBody p) s new :=
  ⟨_, ((raiseSp_announces s).comp (writeRegister_announces _ p (raw (stackByte (raiseSp s))))).congr fun _ => rfl⟩

end

/-- Every instruction that answers a next state is a body, in the frame of a step, that announces what it does. -/
theorem exec_announces {i : Instr} {s t : State} (h : exec i s = .next t) :
    ∃ body, (∀ u, exec i u = inFrame body u) ∧ ∀ u, ∃ new, Announces body u new := by
  cases i with
  | halt => exact ⟨_, fun _ => rfl, fun u => ⟨[], .of_silent (fun _ => rfl) rfl⟩⟩
  | int n => exact ⟨_, fun _ => rfl, dispatch_announces n⟩
  | cmp p src => exact ⟨_, fun _ => rfl, (compareBody_announces · p src)⟩
  | jmp a => exact ⟨_, fun _ => rfl, fun u => ⟨_, writeIp_announces u (raw a)⟩⟩
  | call src => exact ⟨_, fun _ => rfl, (callBody_announces · src)⟩
  | ret => exact ⟨_, fun _ => rfl, returnBody_announces⟩
  | jz a => exact ⟨_, fun _ => rfl, (jumpIf_announces · (fun _ => rfl) a)⟩
  | jnz a => exact ⟨_, fun _ => rfl, (jumpIf_announces · (fun _ => rfl) a)⟩
  | jc a => exact ⟨_, fun _ => rfl, (jumpIf_announces · (fun _ => rfl) a)⟩
  | jnc a => exact ⟨_, fun _ => rfl, (jumpIf_announces · (fun _ => rfl) a)⟩
  | load p src => exact ⟨_, fun _ => rfl, (loadBody_announces · p src)⟩
  | store p dst => exact ⟨_, fun _ => rfl, (storeBody_announces · p dst)⟩
  | add p src => exact ⟨_, fun _ => rfl, (aluBody_announces · _ p src)⟩
  | sub p src => exact ⟨_, fun _ => rfl, (aluBody_announces · _ p src)⟩
  | and p src => exact ⟨_, fun _ => rfl, (aluBody_announces · _ p src)⟩
  | or p src => exact ⟨_, fun _ => rfl, (aluBody_announces · _ p src)⟩
  | xor p src => exact ⟨_, fun _ => rfl, (aluBody_announces · _ p src)⟩
  | inc r => exact ⟨_, fun _ => rfl, (unaryBody_announces · _ r)⟩
  | dec r => exact ⟨_, fun _ => rfl, (unaryBody_announces · _ r)⟩
  | not r => exact ⟨_, fun _ => rfl, (complementBody_announces · r)⟩
  | asl r => exact ⟨_, fun _ => rfl, (unaryBody_announces · _ r)⟩
  | asr r => exact ⟨_, fun _ => rfl, (unaryBody_announces · _ r)⟩
  | push p => exact ⟨_, fun _ => rfl, (pushBody_announces · p)⟩
  | pop p => exact ⟨_, fun _ => rfl, (popBody_announces · p)⟩
  | storeInvalid b => cases h
  | unaryReserved5 b => cases h
  | unaryReserved67 b => cases h

/-- The events of a step whose body appends `new` (40_step_cycle R85, R89). -/
def frameEvents (s : State) (new : List Event) : List Event := .ipChanged (s.ip + 2#8) :: new ++ [.stepCompleted]

theorem emitsInFrame_iff (new : List Event) (s t : State) :
    EmitsInFrame new s t ↔ t.events = s.events ++ frameEvents s new := by
  simp [EmitsInFrame, frameEvents]

/-- A body that announces what it does, in the frame of a step. -/
theorem inFrame_announces {body : State → State} (hbody : ∀ u, ∃ new, Announces body u new) {s t : State}
    (h : inFrame body s = .next t) :
    ∃ new, .stepCompleted ∉ new ∧
      (∀ other, inFrame body (s.withEvents other) = .next (t.withEvents (other ++ frameEvents s new))) ∧
      (frameEvents s new).foldl Mirror.observe s.mirror = t.mirror := by
  have hip : Announces advanceIp s [.ipChanged (s.ip + 2#8)] := by
    rw [← clampValue_raw_add_two]
    exact (writeIp_announces s (raw s.ip + 2)).congr fun _ => rfl
  obtain ⟨new, hnew⟩ := hbody (advanceIp s)
  obtain rfl := inFrame_next h
  have hall := hip.comp hnew
  refine ⟨new, hnew.silent, fun other => ?_, ?_⟩
  · have hblind : body (advanceIp (s.withEvents other)) =
        (body (advanceIp s)).withEvents (other ++ ([.ipChanged (s.ip + 2#8)] ++ new)) := hall.blind other
    rw [inFrame_eq, hblind, emit_withEvents, frameEvents, List.append_assoc]
    rfl
  · rw [frameEvents, List.foldl_append]
    exact congrArg (Mirror.observe · .stepCompleted) hall.mirrors

/-- What appends the same events on any stream appends them on its own. -/
theorem events_eq_of_blind {f : State → Host.Outcome State Fault Refusal} {s t : State} {new : List Event}
    (h : f s = .next t) (hblind : ∀ other, f (s.withEvents other) = .next (t.withEvents (other ++ new))) :
    t.events = s.events ++ new := by
  have hself : Host.Outcome.next t = .next (t.withEvents (s.events ++ new)) := h.symm.trans (hblind s.events)
  injection hself with hself
  exact congrArg State.events hself

/-- Settles O20 (spec/40_step_cycle.md R85, R89, R90): the frame's two events stand around the body's. -/
theorem executedInstructionsEmitInOrder : Obligations.ExecutedInstructionsEmitInOrder := by
  intro i s t h
  obtain ⟨body, hexec, hbody⟩ := exec_announces h
  have hframe := (hexec s).symm.trans h
  obtain ⟨new, hsilent, hblind, -⟩ := inFrame_announces hbody hframe
  exact ⟨new, (emitsInFrame_iff new s t).mpr (events_eq_of_blind hframe hblind), hsilent⟩

/-- What a step that answers a next state appends: the same events on any stream, and enough for an observer. -/
theorem step_announces {s t : State} (h : step s = .next t) :
    ∃ new, (∀ other, step (s.withEvents other) = .next (t.withEvents (other ++ new))) ∧
      new.foldl Mirror.observe s.mirror = t.mirror := by
  rcases step_cases h with ⟨hh, rfl⟩ | ⟨hh, hi, rfl⟩ | ⟨hh, hi, hip, hexec⟩
  · exact ⟨[], fun other => by simp [step, State.withEvents, hh], rfl⟩
  · obtain ⟨new, hmove⟩ := handlerMove_announces s
    refine ⟨new, fun other => ?_, hmove.mirrors⟩
    rw [← hmove.blind]
    simp [step, State.withEvents, hh, hi]
  · obtain ⟨body, hframe, hbody⟩ := exec_announces hexec
    obtain ⟨new, -, hblind, hmirror⟩ := inFrame_announces hbody ((hframe s).symm.trans hexec)
    refine ⟨_, fun other => ?_, hmirror⟩
    have hstep : step (s.withEvents other) =
        exec (decode (fetchBytes s).1 (fetchBytes s).2) (s.withEvents other) := by
      simp [step, State.withEvents, hh, hi, hip]
      rfl
    rw [hstep, hframe, hblind]

/-- Settles O55 (spec/10_state.md R28): the events of a step, taken at their word. -/
theorem eventsAnnounceEveryChange : Obligations.EventsAnnounceEveryChange := by
  intro s t h
  obtain ⟨new, hblind, hmirror⟩ := step_announces h
  exact ⟨new, events_eq_of_blind h hblind, hmirror⟩

/-- Settles O56 (spec/10_state.md R28, spec/60_exceptions.md R179): a step appends the same events on any stream. -/
theorem theStreamNeverInfluencesTheMachine : Obligations.TheStreamNeverInfluencesTheMachine := by
  intro s t new other h hevents
  obtain ⟨new', hblind, -⟩ := step_announces h
  obtain rfl : new = new' := List.append_cancel_left (hevents.symm.trans (events_eq_of_blind h hblind))
  exact hblind other

end Sys2Proof.Machine

namespace Sys2Proof.Machine

/-! ## The step and the handler in flight (spec/40_step_cycle.md R81, R82, R90, R91) -/

/-- Settles O13 (spec/40_step_cycle.md R81): the halted test comes first. -/
theorem haltedStepChangesNothing : Obligations.HaltedStepChangesNothing := by
  intro s hh
  rw [step, if_pos hh]

theorem step_of_interrupted {s : State} (hh : s.halted = false) (hi : s.interrupted = true) :
    step s = .next (handlerMove s) := by
  simp only [step, hh, hi, if_true, Bool.false_eq_true, if_false]

theorem step_of_running {s : State} (hh : s.halted = false) (hi : s.interrupted = false) :
    step s = if s.ip = 0xFF#8 then .fault (.fetchOutOfRange s.ip)
      else exec (decode (fetchBytes s).1 (fetchBytes s).2) s := by
  simp only [step, hh, hi, Bool.false_eq_true, if_false]

/-- Settles O14 (spec/40_step_cycle.md R91). -/
theorem fetchAtTheTopOfMemoryFaults : Obligations.FetchAtTheTopOfMemoryFaults := by
  intro s hh hi hip
  rw [step_of_running hh hi, if_pos hip, hip]

theorem step_of_canFetch {s : State} (h : s.canFetch) :
    step s = exec (decode (fetchBytes s).1 (fetchBytes s).2) s := by
  obtain ⟨hh, hi, hip⟩ := h
  rw [step_of_running hh hi, if_neg hip]

/-- Settles O12 (spec/40_step_cycle.md R83, R84, R90): `decodeBytes` on two bytes is `decode` of them. -/
theorem stepRunsTheDecodedInstruction : Obligations.StepRunsTheDecodedInstruction := by
  intro s b0 b1 i hfetch h0 h1 hdecode
  have hi : decode b0 b1 = i := by
    injection hdecode with hpair
    exact congrArg Prod.fst hpair
  rw [step_of_canFetch hfetch, fetchBytes, h0, h1, hi]

section
variable {s : State} (hh : s.halted = false) (hi : s.interrupted = true)
include hh hi

theorem step_of_pendingWrite {w : GuardedWrite} {ws : List GuardedWrite} {c : Bool}
    (h : s.pending = some { writes := w :: ws, completes := c }) :
    step s = .next { handlerWrite s w with pending := some { writes := ws, completes := c } } := by
  rw [step_of_interrupted hh hi]
  simp only [handlerMove, h]

theorem step_of_pendingCompletion (h : s.pending = some { writes := [], completes := true }) :
    step s = .next (completeHandler s) := by
  rw [step_of_interrupted hh hi]
  simp only [handlerMove, h]

theorem step_of_pendingNothing (h : s.pending = some { writes := [], completes := false }) : step s = .next s := by
  rw [step_of_interrupted hh hi]
  simp only [handlerMove, h]

end

/-- Settles O15 (spec/40_step_cycle.md R82, spec/60_exceptions.md R167 to R169): the three moves of a handler. -/
theorem handlerInFlightHoldsTheEngine : Obligations.HandlerInFlightHoldsTheEngine := fun _ hh hi =>
  ⟨fun _ _ _ => step_of_pendingWrite hh hi, step_of_pendingCompletion hh hi, step_of_pendingNothing hh hi⟩

/-- The state after a handler's move that is a write: the engine is held as before. -/
theorem held_after_write {s : State} (hh : s.halted = false) (hi : s.interrupted = true) (w : GuardedWrite) :
    (handlerWrite s w).halted = false ∧ (handlerWrite s w).interrupted = true := by
  obtain ⟨hhalted, hinterrupted, -⟩ := handlerWrite_status s w
  exact ⟨hhalted.trans hh, hinterrupted.trans hi⟩

/-- A handler that completes, run to its completion: by induction on the writes it has left. -/
theorem runFor_completingHandler (ws : List GuardedWrite) {s : State} (hh : s.halted = false)
    (hi : s.interrupted = true) (hp : s.pending = some { writes := ws, completes := true }) :
    runFor (ws.length + 1) s = .next (completeHandler (ws.foldl handlerWrite s)) := by
  induction ws generalizing s with
  | nil => rw [runFor_succ (step_of_pendingCompletion hh hi hp)]; rfl
  | cons w ws ih =>
    obtain ⟨hh', hi'⟩ := held_after_write hh hi w
    have hrun := ih (s := { handlerWrite s w with pending := some { writes := ws, completes := true } }) hh' hi' rfl
    rw [handlerWrites_pending] at hrun
    exact (runFor_succ (step_of_pendingWrite hh hi hp) _).trans hrun

/-- Settles O16 (spec/60_exceptions.md R167, R168). -/
theorem completingHandlerLiftsTheHold : Obligations.CompletingHandlerLiftsTheHold := by
  intro s ws hh hi hp
  obtain ⟨hhalted, -⟩ := handlerWrites_status ws s
  exact ⟨_, runFor_completingHandler ws hh hi hp, rfl, rfl, hhalted.trans hh, rfl⟩

/-- One move of a handler that never completes: the engine is held after it as before, by the same handler. -/
theorem step_neverCompletes {s : State} (hh : s.halted = false) (hi : s.interrupted = true)
    {ws : List GuardedWrite} (hp : s.pending = some { writes := ws, completes := false }) :
    ∃ t ws', step s = .next t ∧ t.halted = false ∧ t.interrupted = true ∧
      t.pending = some { writes := ws', completes := false } := by
  cases ws with
  | nil => exact ⟨s, [], step_of_pendingNothing hh hi hp, hh, hi, hp⟩
  | cons w ws =>
    obtain ⟨hh', hi'⟩ := held_after_write hh hi w
    exact ⟨_, ws, step_of_pendingWrite hh hi hp, hh', hi', rfl⟩

/-- Any number of moves of a handler that never completes: by induction on the number. -/
theorem runFor_neverCompletes (k : Nat) {s : State} (hh : s.halted = false) (hi : s.interrupted = true)
    {ws : List GuardedWrite} (hp : s.pending = some { writes := ws, completes := false }) :
    ∃ t new, runFor k s = .next t ∧ t.interrupted = true ∧ t.events = s.events ++ new ∧ .stepCompleted ∉ new := by
  induction k generalizing s ws with
  | zero => exact ⟨s, [], rfl, hi, (List.append_nil _).symm, List.not_mem_nil⟩
  | succ k ih =>
    obtain ⟨t, ws', hstep, hh', hi', hp'⟩ := step_neverCompletes hh hi hp
    obtain ⟨u, new', hrun, hu, hevents', hsilent'⟩ := ih hh' hi' hp'
    obtain ⟨new, hmove⟩ := handlerMove_announces s
    obtain rfl : handlerMove s = t := by
      have hsame := (step_of_interrupted hh hi).symm.trans hstep
      injection hsame
    refine ⟨u, new ++ new', (runFor_succ hstep k).trans hrun, hu, ?_, by simp [hmove.silent, hsilent']⟩
    rw [hevents', hmove.events_eq, List.append_assoc]

/-- Settles O17 (spec/60_exceptions.md R169): a handler's moves are no steps of the engine. -/
theorem handlerThatNeverCompletesHoldsForEver : Obligations.HandlerThatNeverCompletesHoldsForEver := by
  intro s ws k hh hi hp
  obtain ⟨t, new, hrun, hheld, hevents, hsilent⟩ := runFor_neverCompletes k hh hi hp
  exact ⟨t, hrun, hheld, by rwa [hevents, List.drop_left]⟩

/-! ## The Faults (spec/60_exceptions.md R161, R173) -/

/-- Settles O32 (spec/43_load_store.md R122). -/
theorem storeInInvalidModeFaults : Obligations.StoreInInvalidModeFaults := fun _ _ => rfl

/-- Settles O41 (spec/45_unary.md R145). -/
theorem reservedUnaryFaults : Obligations.ReservedUnaryFaults := fun _ _ => ⟨rfl, rfl⟩

/-- An instruction that is not a reserved row runs in the frame of a step, and so answers a next state. -/
theorem exec_next_of_not_reserved {i : Instr} (h : i.isReserved = false) (s : State) : ∃ t, exec i s = .next t := by
  cases i with
  | storeInvalid b => cases h
  | unaryReserved5 b => cases h
  | unaryReserved67 b => cases h
  | _ => exact ⟨_, inFrame_eq _ s⟩

theorem exec_not_refused (i : Instr) (s : State) (r : Refusal) : exec i s ≠ .refused r := by
  cases i <;> nofun

/-- Settles O19 (spec/30_encoding.md R70, spec/60_exceptions.md R160): the branches of the step. -/
theorem noStepIsRefused : Obligations.NoStepIsRefused := by
  intro s r
  unfold step
  split
  · nofun
  · split
    · nofun
    · split
      · nofun
      · exact exec_not_refused _ s r

theorem unaryReservedByte_iff (b : Byte) : b &&& 0xF0#8 = 0xE0#8 ∧ 5 ≤ b.toNat % 8 ↔
    b &&& 0xF7#8 = 0xE5#8 ∨ b &&& 0xF6#8 = 0xE6#8 := by
  rw [unaryByte_iff, unaryReserved5Byte_iff, unaryReserved67Byte_iff, subField_eq]
  omega

/-- The Fault of an executed word: exactly the reserved encodings fault, with IP and b0 (R161). -/
theorem exec_decode_fault_iff (b0 b1 : Byte) (s : State) (f : Fault) : exec (decode b0 b1) s = .fault f ↔
    (b0 &&& 0xF2#8 = 0x80#8 ∧ f = .invalidStoreMode s.ip b0) ∨
    ((b0 &&& 0xF7#8 = 0xE5#8 ∨ b0 &&& 0xF6#8 = 0xE6#8) ∧ f = .reservedUnarySubop s.ip b0) := by
  constructor
  · intro h
    have hwf := decodedInstructionsAreWellFormed b0 b1
    cases hr : (decode b0 b1).isReserved with
    | false =>
      obtain ⟨t, ht⟩ := exec_next_of_not_reserved hr s
      cases ht.symm.trans h
    | true =>
      rcases decode_reserved hr with hd | hd | hd <;> rw [hd] at h hwf <;> injection h with h
      · exact .inl ⟨beq_iff_eq.mp hwf, h.symm⟩
      · exact .inr ⟨.inl (beq_iff_eq.mp hwf), h.symm⟩
      · exact .inr ⟨.inr (beq_iff_eq.mp hwf), h.symm⟩
  · rintro (⟨hb, rfl⟩ | ⟨hb | hb, rfl⟩)
    · rw [decode_storeInvalid b1 hb]; rfl
    · rw [decode_unaryReserved5 b1 hb]; rfl
    · rw [decode_unaryReserved67 b1 hb]; rfl

/-- Settles O18 (spec/60_exceptions.md R161, R173): a halted or held machine answers a next state, the fetch at 0xFF
its own Fault, and elsewhere the decoded word decides. -/
theorem stepFaultsExactlyWhereTheSpecSays : Obligations.StepFaultsExactlyWhereTheSpecSays := by
  intro s f
  cases hh : s.halted with
  | true => simp [step, hh]
  | false =>
    cases hi : s.interrupted with
    | true => simp [step_of_interrupted hh hi]
    | false =>
      rw [step_of_running hh hi]
      by_cases hip : s.ip = 0xFF#8
      · simp [hip, eq_comm]
      · have hbyte := unaryReservedByte_iff (readMemory s.ip s)
        rw [if_neg hip, exec_decode_fault_iff, fetchBytes, ← hbyte]
        simp [hip, and_assoc]

end Sys2Proof.Machine

namespace Sys2Proof.Machine

/-! ## The dispatcher (spec/60_exceptions.md R165 to R168) -/

theorem sameMemory_of_mem {s t : State} (h : t.mem = s.mem) : SameMemory s t := readMemory_congr h

theorem sameRegisters_of_regs {s t : State} (h : t.regs = s.regs) : SameRegisters s t := readRegister_congr h

/-- What a handler that completes in this way has still to do when its dispatch call returns. -/
def Completion.leaves : Completion → Option Pending
  | .withinCall => none
  | .later ws => some { writes := ws, completes := true }
  | .never ws => some { writes := ws, completes := false }

/-- The dispatch call, with a handler in flight: its writes within the call, and then `interrupted` holds exactly
while some work is left. -/
theorem performResponse_eq (r : HandlerResponse) {s : State} (hi : s.interrupted = true) :
    performResponse r s = { r.inCall.foldl handlerWrite s with
      interrupted := (Completion.leaves r.completion).isSome, pending := Completion.leaves r.completion } := by
  obtain ⟨inCall, completion⟩ := r
  obtain ⟨-, hinterrupted, -⟩ := handlerWrites_status inCall s
  have hi' := hinterrupted.trans hi
  cases completion with
  | withinCall => rfl
  | later ws => simp only [performResponse, Completion.leaves, Option.isSome_some, ← hi']
  | never ws => simp only [performResponse, Completion.leaves, Option.isSome_some, ← hi']

/-- A handler's access neither reads nor writes the ticket. -/
theorem handlerWrite_nextTicket (s : State) (w : GuardedWrite) :
    handlerWrite (nextTicket s) w = nextTicket (handlerWrite s w) := by
  cases w with
  | memory a v => simp only [handlerWrite, guardedWrite]; cases byteOfInt a <;> rfl
  | register i v => simp only [handlerWrite, guardedWrite]; cases regOfInt i <;> rfl
  | ip v => rfl
  | sp v => rfl
  | zero b => simp only [handlerWrite, guardedWrite]; cases bitOfInt b <;> rfl
  | carry b => simp only [handlerWrite, guardedWrite]; cases bitOfInt b <;> rfl

theorem handlerWrites_nextTicket (ws : List GuardedWrite) (s : State) :
    ws.foldl handlerWrite (nextTicket s) = nextTicket (ws.foldl handlerWrite s) := by
  induction ws generalizing s with
  | nil => rfl
  | cons w ws ih => rw [List.foldl_cons, handlerWrite_nextTicket, ih, List.foldl_cons]

/-- INT to a bound id: the handler's writes within the call, and what it leaves for later. -/
theorem dispatch_eq {id : Byte} {s : State} {h : Handler} {r : HandlerResponse}
    (hl : lookupKey id.toNat s.intTable = some h) (hr : responseOf h (enterHandler s) = r) :
    dispatch id s = { nextTicket (r.inCall.foldl handlerWrite (enterHandler s)) with
      interrupted := (Completion.leaves r.completion).isSome, pending := Completion.leaves r.completion } := by
  rw [dispatch_of_some hl, hr, performResponse_eq _ rfl, handlerWrites_nextTicket]

/-- Settles O24 (spec/60_exceptions.md R166 to R168): the dispatch after the advance, by the handler's completion. -/
theorem intInvokesTheHandler : Obligations.IntInvokesTheHandler := by
  intro n k s hl
  refine ⟨_, inFrame_eq (dispatch n) s, ?_⟩
  intro entry r u
  have hdispatch : dispatch n (advanceIp s) = { nextTicket u with
      interrupted := (Completion.leaves r.completion).isSome, pending := Completion.leaves r.completion } :=
    dispatch_eq (s := advanceIp s) hl rfl
  obtain ⟨hhalted, -, htable, -⟩ : SameStatus entry u := handlerWrites_status r.inCall entry
  rw [hdispatch]
  clear_value u
  refine ⟨rfl, clampValue_raw_add_two s.ip, rfl, rfl, rfl, rfl, rfl, rfl, rfl, rfl, rfl, rfl, rfl, hhalted, htable,
    rfl, ?_⟩
  cases hc : r.completion <;> exact ⟨rfl, rfl⟩

/-- Settles O22 (spec/60_exceptions.md R165): a dispatch to an empty entry does nothing. -/
theorem intWithoutHandlerIsIgnored : Obligations.IntWithoutHandlerIsIgnored := by
  intro n s hl
  have hl' : lookupKey n.toNat (advanceIp s).intTable = none := hl
  refine ⟨_, inFrame_eq (dispatch n) s, ?_⟩
  rw [dispatch_of_none hl']
  exact ⟨clampValue_raw_add_two s.ip, sameRegisters_of_regs rfl, sameMemory_of_mem rfl, ⟨rfl, rfl⟩, rfl,
    ⟨rfl, rfl, rfl, rfl, rfl⟩,
    by simp [EmitsInFrame]⟩

/-- Writing a byte to a register clears C (10_state R13, R22). -/
theorem writeRegister_raw (i : Reg) (v : Byte) (s : State) : writeRegister i (raw v) s = storeRegister i v false s := by
  rw [writeRegister, clampValue_raw, clampCarry_raw]

/-- The random handler's whole activation (60_exceptions R174): one register write, then its completion. -/
theorem dispatch_random {id : Byte} {s : State} (hl : lookupKey id.toNat s.intTable = some .random) :
    dispatch id s =
      completeHandler (storeRegister .r0 (Config.randomDraw s.draws) false (nextTicket (enterHandler s))) := by
  rw [dispatch_of_some hl, ← writeRegister_raw]
  rfl

/-- Settles O23 (spec/60_exceptions.md R174): the random handler's write of a byte, which clears C. -/
theorem intRunsTheRandomHandler : Obligations.IntRunsTheRandomHandler := by
  intro n s hl
  have hdispatch := dispatch_random (s := advanceIp s) hl
  refine ⟨_, _, inFrame_eq (dispatch n) s, rfl, ?_⟩
  rw [hdispatch, advanceIp_draws]
  refine ⟨?_, ?_, ?_, ?others, sameMemory_of_mem ?_, ?_, ?_, ?_, ?_, ?_, ?_, ?events⟩
  case others =>
    intro r hr
    simp [readRegister, get_set_other _ _ hr]
  case events => simp [EmitsInFrame]
  all_goals simp [readRegister]

/-! ## What an instruction can do -/

/-- What the body of an instruction can make of the state `u` it runs in, that with IP advanced: the frame lemma
of every instruction, with the values it writes left open where no frame rests on them. -/
inductive BodyEffect : Instr → State → State → Prop where
  | halts (u : State) : BodyEffect .halt u (setHalted u)
  | dispatches (n : Byte) (u : State) : BodyEffect (.int n) u (dispatch n u)
  | compares (p : Reg) (src : Operand) (z : Bool) (u : State) : BodyEffect (.cmp p src) u (writeZeroFlag z u)
  | jumps {i : Instr} (hi : bodyWritesIp i = true) (v : Int) (u : State) : BodyEffect i u (writeIp v u)
  | fallsThrough {i : Instr} (hi : bodyWritesIp i = true) (u : State) : BodyEffect i u u
  | calls (src : Operand) (b : Byte) (v : Int) (u : State) :
      BodyEffect (.call src) u (writeIp v (pushByte b u))
  | returns (v : Int) (u : State) : BodyEffect .ret u (writeIp v (raiseSp u))
  | stores (p : Reg) (dst : Dest) (v : Int) (u : State) :
      BodyEffect (.store p dst) u (writeMemory (operandAddress dst u) v u)
  | pushes (p : Reg) (b : Byte) (u : State) : BodyEffect (.push p) u (pushByte b u)
  | pops (p : Reg) (v : Byte) (c : Bool) (u : State) : BodyEffect (.pop p) u (storeRegister p v c (raiseSp u))
  | writesRegister {i : Instr} {r : Reg} (hr : writtenRegister i = some r) (hsp : bodyWritesSp i = false) (v : Byte) (c : Bool)
      (u : State) : BodyEffect i u (storeRegister r v c u)

theorem jumpIf_effect {i : Instr} (hi : bodyWritesIp i = true) (cond : State → Bool) (a : Byte) (u : State) :
    BodyEffect i u (jumpIf cond a u) := by
  unfold jumpIf
  split
  · exact .jumps hi (raw a) u
  · exact .fallsThrough hi u

theorem inFrame_effect {i : Instr} {body : State → State} {s t : State} (h : inFrame body s = .next t)
    (heffect : ∀ u, BodyEffect i u (body u)) : ∃ w, BodyEffect i (advanceIp s) w ∧ t = emit .stepCompleted w :=
  ⟨_, heffect _, inFrame_next h⟩

theorem aluBody_effect {i : Instr} {p : Reg} (hr : writtenRegister i = some p) (hsp : bodyWritesSp i = false)
    (op : Byte → Byte → Int) (src : Operand) (u : State) : BodyEffect i u (aluBody op p src u) :=
  .writesRegister hr hsp _ _ u

theorem unaryBody_effect {i : Instr} {r : Reg} (hr : writtenRegister i = some r) (hsp : bodyWritesSp i = false)
    (op : Byte → Int) (u : State) : BodyEffect i u (unaryBody op r u) :=
  .writesRegister hr hsp _ _ u

/-- An instruction that answers a next state has run one of these effects in the frame of a step. -/
theorem exec_effect {i : Instr} {s t : State} (h : exec i s = .next t) :
    ∃ w, BodyEffect i (advanceIp s) w ∧ t = emit .stepCompleted w := by
  cases i with
  | halt => exact inFrame_effect h .halts
  | int n => exact inFrame_effect h (.dispatches n)
  | cmp p src => exact inFrame_effect h fun u => .compares p src _ u
  | jmp a => exact inFrame_effect h (.jumps rfl (raw a))
  | call src => exact inFrame_effect h fun u => .calls src u.ip _ u
  | ret => exact inFrame_effect h fun u => .returns _ u
  | jz a => exact inFrame_effect h (jumpIf_effect rfl condZ a)
  | jnz a => exact inFrame_effect h (jumpIf_effect rfl condNZ a)
  | jc a => exact inFrame_effect h (jumpIf_effect rfl condC a)
  | jnc a => exact inFrame_effect h (jumpIf_effect rfl condNC a)
  | load p src => exact inFrame_effect h fun u => .writesRegister (r := p) rfl rfl _ _ u
  | store p dst => exact inFrame_effect h fun u => .stores p dst _ u
  | add p src => exact inFrame_effect h (aluBody_effect rfl rfl _ src)
  | sub p src => exact inFrame_effect h (aluBody_effect rfl rfl _ src)
  | and p src => exact inFrame_effect h (aluBody_effect rfl rfl _ src)
  | or p src => exact inFrame_effect h (aluBody_effect rfl rfl _ src)
  | xor p src => exact inFrame_effect h (aluBody_effect rfl rfl _ src)
  | inc r => exact inFrame_effect h (unaryBody_effect rfl rfl _)
  | dec r => exact inFrame_effect h (unaryBody_effect rfl rfl _)
  | not r => exact inFrame_effect h fun u => .writesRegister (r := r) rfl rfl _ _ u
  | asl r => exact inFrame_effect h (unaryBody_effect rfl rfl _)
  | asr r => exact inFrame_effect h (unaryBody_effect rfl rfl _)
  | push p => exact inFrame_effect h fun u => .pushes p _ u
  | pop p => exact inFrame_effect h fun u => .pops p _ _ u
  | storeInvalid b => cases h
  | unaryReserved5 b => cases h
  | unaryReserved67 b => cases h

/-- No instruction writes both IP in its body and a register (10_state R12, R14). -/
theorem writtenRegister_of_bodyWritesIp {i : Instr} (h : bodyWritesIp i = true) : writtenRegister i = none := by
  cases i with
  | jmp | call | ret | jz | jnz | jc | jnc => rfl
  | _ => cases h

/-- Settles O42 (spec/10_state.md R13, R28): of the effects two write a register, POP's after raising SP. -/
theorem registerInstructionsEmitThreeEvents : Obligations.RegisterInstructionsEmitThreeEvents := by
  intro i r s t hr h
  obtain ⟨w, heffect, rfl⟩ := exec_effect h
  cases heffect with
  | writesRegister hr' hsp v c =>
    obtain rfl : r = _ := Option.some.inj (hr.symm.trans hr')
    have hpop : i ≠ .pop r := by
      rintro rfl
      cases hsp
    simp [EmitsInFrame, hpop, readRegister]
  | pops p v c =>
    obtain rfl : p = r := Option.some.inj hr
    simp [EmitsInFrame, readRegister]
  | jumps hi => cases (writtenRegister_of_bodyWritesIp hi).symm.trans hr
  | fallsThrough hi => cases (writtenRegister_of_bodyWritesIp hi).symm.trans hr
  | halts => cases hr
  | dispatches n => cases hr
  | compares p src z => cases hr
  | calls src b v => cases hr
  | returns v => cases hr
  | stores p dst v => cases hr
  | pushes p b => cases hr

/-- Settles O49 (spec/10_state.md R21): of the effects only CMP's and a dispatch write Z. -/
theorem onlyCompareWritesZero : Obligations.OnlyCompareWritesZero := by
  intro i s t h hcmp hint
  obtain ⟨w, heffect, rfl⟩ := exec_effect h
  cases heffect with
  | compares p src z => exact absurd rfl (hcmp p src)
  | dispatches n => exact absurd rfl (hint n)
  | _ => rfl

/-- Settles O50 (spec/10_state.md R22): of the effects only the register writes and a dispatch write C. -/
theorem onlyRegisterWritersWriteCarry : Obligations.OnlyRegisterWritersWriteCarry := by
  intro i s t h hnone hint
  obtain ⟨w, heffect, rfl⟩ := exec_effect h
  cases heffect with
  | writesRegister hr hsp v c => cases hr.symm.trans hnone
  | pops p v c => cases hnone
  | dispatches n => exact absurd rfl (hint n)
  | _ => rfl

/-! The parts of the frame of an instruction that is not INT, each from the effects. -/

section
variable {i : Instr} {s w : State} (h : BodyEffect i (advanceIp s) w)
include h

theorem BodyEffect.readMemory_eq (hint : ∀ n, i ≠ .int n) {a : Byte} (ha : storedAddress i s ≠ some a) :
    readMemory a w = readMemory a s := by
  have hpush : ∀ b, s.sp ≠ a → readMemory a (pushByte b (advanceIp s)) = readMemory a s := fun b hne =>
    readMemory_writeMemory_other (raw b) (advanceIp s) (Ne.symm hne)
  cases h with
  | dispatches n => exact absurd rfl (hint n)
  | calls src b v => exact hpush b fun e => ha (congrArg some e)
  | pushes p b => exact hpush b fun e => ha (congrArg some e)
  | stores p dst v =>
    rw [operandAddress_advanceIp]
    exact readMemory_writeMemory_other v (advanceIp s) fun e => ha (congrArg some e.symm)
  | _ => rfl

theorem BodyEffect.readRegister_eq (hint : ∀ n, i ≠ .int n) {r : Reg} (hr : writtenRegister i ≠ some r) :
    readRegister r w = readRegister r s := by
  cases h with
  | dispatches n => exact absurd rfl (hint n)
  | pops p v c => exact get_set_other _ v fun e => hr (congrArg some e.symm)
  | writesRegister hr' hsp v c => exact get_set_other _ v fun e => hr (hr'.trans (congrArg some e.symm))
  | _ => rfl

theorem BodyEffect.ip_eq (hint : ∀ n, i ≠ .int n) (hip : bodyWritesIp i = false) : w.ip = s.ip + 2#8 := by
  rw [← clampValue_raw_add_two]
  cases h with
  | dispatches n => exact absurd rfl (hint n)
  | jumps hi => cases hi.symm.trans hip
  | fallsThrough hi => cases hi.symm.trans hip
  | calls src b v => cases hip
  | returns v => cases hip
  | _ => rfl

theorem BodyEffect.sp_eq (hint : ∀ n, i ≠ .int n) (hsp : bodyWritesSp i = false) : w.sp = s.sp := by
  cases h with
  | dispatches n => exact absurd rfl (hint n)
  | calls src b v => cases hsp
  | returns v => cases hsp
  | pushes p b => cases hsp
  | pops p v c => cases hsp
  | _ => rfl

theorem BodyEffect.halted_eq (hint : ∀ n, i ≠ .int n) (hhalt : i ≠ .halt) : w.halted = s.halted := by
  cases h with
  | dispatches n => exact absurd rfl (hint n)
  | halts => exact absurd rfl hhalt
  | _ => rfl

theorem BodyEffect.status_eq (hint : ∀ n, i ≠ .int n) : w.interrupted = s.interrupted ∧ w.intTable = s.intTable ∧
    w.pending = s.pending ∧ w.draws = s.draws := by
  cases h with
  | dispatches n => exact absurd rfl (hint n)
  | _ => exact ⟨rfl, rfl, rfl, rfl⟩

end

/-- Settles O48 (spec/10_state.md R12, R14, R16, R23, spec/20_memory.md R44): the frame, part by part. -/
theorem eachInstructionWritesOnlyWhatItsRuleNames : Obligations.EachInstructionWritesOnlyWhatItsRuleNames := by
  intro i s t h hint
  obtain ⟨w, heffect, rfl⟩ := exec_effect h
  exact ⟨fun _ => heffect.readMemory_eq hint, fun _ => heffect.readRegister_eq hint, heffect.ip_eq hint,
    heffect.sp_eq hint, heffect.halted_eq hint, heffect.status_eq hint⟩

/-! ## What every step keeps -/

theorem dispatch_status (id : Byte) (s : State) :
    (dispatch id s).halted = s.halted ∧ (dispatch id s).intTable = s.intTable := by
  cases hl : lookupKey id.toNat s.intTable with
  | none => rw [dispatch_of_none hl]; exact ⟨rfl, rfl⟩
  | some h =>
    obtain ⟨hhalted, -, htable, -⟩ :=
      handlerWrites_status (responseOf h (enterHandler s)).inCall (enterHandler s)
    rw [dispatch_eq hl rfl]
    exact ⟨hhalted, htable⟩

/-- Everything a handler's move can be: nothing, a write that leaves the rest of its work, or its completion. -/
theorem handlerMove_cases (s : State) :
    handlerMove s = s ∨
    (∃ w p, s.pending.isSome = true ∧ handlerMove s = { handlerWrite s w with pending := some p }) ∨
    handlerMove s = completeHandler s := by
  match h : s.pending with
  | none => exact .inl (by simp only [handlerMove, h])
  | some { writes := w :: ws, completes := c } =>
    exact .inr (.inl ⟨w, { writes := ws, completes := c }, rfl, by simp only [handlerMove, h]⟩)
  | some { writes := [], completes := true } => exact .inr (.inr (by simp only [handlerMove, h]))
  | some { writes := [], completes := false } => exact .inl (by simp only [handlerMove, h])

theorem handlerMove_status (s : State) :
    (handlerMove s).halted = s.halted ∧ (handlerMove s).intTable = s.intTable := by
  rcases handlerMove_cases s with h | ⟨w, p, -, h⟩ | h
  · rw [h]; exact ⟨rfl, rfl⟩
  · obtain ⟨hhalted, -, htable, -⟩ := handlerWrite_status s w
    rw [h]
    exact ⟨hhalted, htable⟩
  · rw [h]; exact ⟨rfl, rfl⟩

theorem exec_intTable {i : Instr} {s t : State} (h : exec i s = .next t) : t.intTable = s.intTable := by
  obtain ⟨w, heffect, rfl⟩ := exec_effect h
  cases heffect with
  | dispatches n => exact (dispatch_status n (advanceIp s)).2
  | _ => rfl

theorem exec_halted {i : Instr} {s t : State} (h : exec i s = .next t) (hhalt : i ≠ .halt) :
    t.halted = s.halted := by
  obtain ⟨w, heffect, rfl⟩ := exec_effect h
  cases heffect with
  | dispatches n => exact (dispatch_status n (advanceIp s)).1
  | halts => exact absurd rfl hhalt
  | _ => rfl

/-- Settles O52 (spec/60_exceptions.md R164). -/
theorem noStepWritesTheInterruptTable : Obligations.NoStepWritesTheInterruptTable := by
  intro s t h
  rcases step_cases h with ⟨-, rfl⟩ | ⟨-, -, rfl⟩ | ⟨-, -, -, hexec⟩
  · rfl
  · exact (handlerMove_status s).2
  · exact exec_intTable hexec

/-- Only operation code 0 is HALT (30_encoding R71). -/
theorem opField_of_decode_halt {b0 b1 : Byte} (h : decode b0 b1 = .halt) : opField b0 = 0 := by
  revert h
  unfold decode
  split
  case h_1 ho => exact fun _ => ho
  case h_7 => unfold decodeCondJump; split <;> nofun
  case h_9 => unfold decodeStore; split <;> nofun
  case h_15 => unfold decodeUnary; split <;> nofun
  case h_16 => unfold decodeStack; split <;> nofun
  all_goals nofun

/-- Settles O51 (spec/10_state.md R23): of the moves of a step only HALT writes `halted`. -/
theorem onlyHaltEntersAndNothingLeavesHalted : Obligations.OnlyHaltEntersAndNothingLeavesHalted := by
  intro s t h
  rcases step_cases h with ⟨-, rfl⟩ | ⟨hh, -, rfl⟩ | ⟨hh, hi, hip, hexec⟩
  · exact ⟨id, fun hn hy => nomatch hn.symm.trans hy⟩
  · rw [(handlerMove_status s).1]
    exact ⟨id, fun hn hy => nomatch hn.symm.trans hy⟩
  · refine ⟨fun hy => (nomatch hh.symm.trans hy), fun _ hy => ⟨⟨hh, hi, hip⟩, ?_⟩⟩
    by_cases hhalt : decode (fetchBytes s).1 (fetchBytes s).2 = .halt
    · exact (haltByte_iff _).mpr (opField_of_decode_halt hhalt)
    · cases hh.symm.trans ((exec_halted hexec hhalt).symm.trans hy)

/-! ## The invariant (State.inv) -/

theorem handlerWrite_mem_wf {s : State} (hm : Memory.wf s.mem = true) (w : GuardedWrite) :
    Memory.wf (handlerWrite s w).mem = true := by
  rcases handlerWrite_cases s w with h | ⟨a, v, h⟩ | ⟨_, _, h⟩ | ⟨_, h⟩ | ⟨_, h⟩ | ⟨_, h⟩ | ⟨_, h⟩ <;> rw [h]
  case inr.inl => exact writeCell_wf a (clampValue v) hm
  all_goals exact hm

theorem handlerWrites_mem_wf (ws : List GuardedWrite) {s : State} (hm : Memory.wf s.mem = true) :
    Memory.wf (ws.foldl handlerWrite s).mem = true :=
  handlerWrites_induction (R := fun s t => Memory.wf s.mem = true → Memory.wf t.mem = true) (fun _ => id)
    (fun _ _ _ hst htu => htu ∘ hst) (fun _ w hm => handlerWrite_mem_wf hm w) ws s hm

theorem BodyEffect.mem_wf {i : Instr} {u w : State} (h : BodyEffect i u w) (hm : Memory.wf u.mem = true) :
    Memory.wf w.mem = true := by
  cases h with
  | dispatches n =>
    cases hl : lookupKey n.toNat u.intTable with
    | none => rwa [dispatch_of_none hl]
    | some k =>
      rw [dispatch_eq hl rfl]
      exact handlerWrites_mem_wf _ (s := enterHandler u) hm
  | calls src b v => exact writeCell_wf _ _ hm
  | pushes p b => exact writeCell_wf _ _ hm
  | stores p dst v => exact writeCell_wf _ _ hm
  | _ => exact hm

/-- INT with no handler in flight leaves one in flight exactly when it leaves work for later. -/
theorem dispatch_interrupted (id : Byte) {s : State} (h : s.interrupted = s.pending.isSome) :
    (dispatch id s).interrupted = (dispatch id s).pending.isSome := by
  cases hl : lookupKey id.toNat s.intTable with
  | none => rwa [dispatch_of_none hl]
  | some k => rw [dispatch_eq hl rfl]

theorem handlerMove_inv {s : State} (h : s.inv) (hh : s.halted = false) : (handlerMove s).inv := by
  obtain ⟨hmem, htable, hpending, hhalted⟩ := h
  rcases handlerMove_cases s with heq | ⟨w, p, hsome, heq⟩ | heq
  · rw [heq]; exact ⟨hmem, htable, hpending, hhalted⟩
  · obtain ⟨hh', hi', ht', -⟩ := handlerWrite_status s w
    rw [heq]
    refine ⟨handlerWrite_mem_wf hmem w, ht' ▸ htable, ?_, fun hy => nomatch (hh'.trans hh).symm.trans hy⟩
    exact hi'.trans (hpending.trans hsome)
  · rw [heq]; exact ⟨hmem, htable, rfl, fun _ => rfl⟩

theorem exec_inv {i : Instr} {s t : State} (h : s.inv) (hh : s.halted = false) (hi : s.interrupted = false)
    (hexec : exec i s = .next t) : t.inv := by
  obtain ⟨hmem, htable, hpending, -⟩ := h
  have htable' := exec_intTable hexec
  have hhalted' := exec_halted hexec
  obtain ⟨w, heffect, rfl⟩ := exec_effect hexec
  refine ⟨heffect.mem_wf hmem, htable' ▸ htable, ?_, fun hy => ?_⟩
  · cases heffect with
    | dispatches n => exact dispatch_interrupted n (s := advanceIp s) hpending
    | _ => exact hpending
  · cases heffect with
    | halts => exact hi
    | dispatches n => exact nomatch hh.symm.trans ((hhalted' nofun).symm.trans hy)
    | _ => exact hi

/-- Settles O53: the invariant through the three kinds of a step (spec/40_step_cycle.md R90). -/
theorem everyStepKeepsTheInvariant : Obligations.EveryStepKeepsTheInvariant := by
  intro s t hinv h
  rcases step_cases h with ⟨-, rfl⟩ | ⟨hh, -, rfl⟩ | ⟨hh, hi, -, hexec⟩
  · exact hinv
  · exact handlerMove_inv hinv hh
  · exact exec_inv hinv hh hi hexec

end Sys2Proof.Machine

namespace Sys2Proof.Machine

/-! ## Memory and the guarded writes (spec/20_memory.md R40 to R42, spec/10_state.md R13 to R20) -/

/-- Two rising lists that give every key the same value are the same list. -/
theorem eq_of_lookupKey_eq {α : Type} {lo : Nat} {m n : List (Nat × α)} (hm : risingFrom lo m = true)
    (hn : risingFrom lo n = true) (h : ∀ k, lookupKey k m = lookupKey k n) : m = n := by
  induction m generalizing lo n with
  | nil =>
    cases n with
    | nil => rfl
    | cons d n => simpa [lookupKey] using h d.1
  | cons c m ih =>
    cases n with
    | nil => simpa [lookupKey] using h c.1
    | cons d n =>
      obtain ⟨j, v⟩ := c
      obtain ⟨k, w⟩ := d
      simp only [risingFrom, Bool.and_eq_true, decide_eq_true_eq] at hm hn
      obtain ⟨-, hm⟩ := hm
      obtain ⟨-, hn⟩ := hn
      have hjk : j = k := by
        by_contra hne
        have hj := h j
        have hk := h k
        simp only [lookupKey, if_true, if_neg hne, if_neg (Ne.symm hne)] at hj hk
        rcases Nat.lt_or_gt_of_ne hne with hlt | hlt
        · rw [lookupKey_of_lt n hn (by omega)] at hj
          cases hj
        · rw [lookupKey_of_lt m hm (by omega)] at hk
          cases hk
      subst hjk
      have hv := h j
      simp only [lookupKey, if_true, Option.some.injEq] at hv
      have htail : ∀ i, lookupKey i m = lookupKey i n := by
        intro i
        by_cases hi : j = i
        · rw [lookupKey_of_lt m hm (by omega), lookupKey_of_lt n hn (by omega)]
        · simpa only [lookupKey, if_neg hi] using h i
      rw [hv, ih hm hn htail]

theorem mem_of_lookupKey {α : Type} {k : Nat} {v : α} {m : List (Nat × α)} (h : lookupKey k m = some v) :
    (k, v) ∈ m := by
  induction m with
  | nil => cases h
  | cons c m ih =>
    obtain ⟨j, w⟩ := c
    simp only [lookupKey] at h
    split at h
    · next hj =>
      injection h with hv
      rw [hj, hv]
      exact List.mem_cons_self
    · exact List.mem_cons_of_mem _ (ih h)

/-- In canonical form a cell is listed exactly where an address of the space does not read 0x00. -/
theorem lookupKey_eq_some_iff {m : Memory} (hm : Memory.wf m = true) (a : Nat) (v : Byte) :
    lookupKey a m = some v ↔ a < 256 ∧ v ≠ 0#8 ∧ readCell m a = v := by
  simp only [Memory.wf, Bool.and_eq_true, List.all_eq_true, decide_eq_true_eq, bne_iff_ne] at hm
  obtain ⟨-, hcells⟩ := hm
  constructor
  · intro h
    obtain ⟨ha, hv⟩ := hcells _ (mem_of_lookupKey h)
    exact ⟨ha, hv, by rw [readCell, h, Option.getD_some]⟩
  · rintro ⟨-, hv, h⟩
    rw [readCell] at h
    cases hl : lookupKey a m with
    | none =>
      rw [hl, Option.getD_none] at h
      exact absurd h.symm hv
    | some w => rw [hl, Option.getD_some] at h; rw [h]

/-- Settles O10 (spec/20_memory.md R40, R41): what every address reads tells which cells are listed. -/
theorem canonicalMemoriesThatReadAlikeAreEqual : Obligations.CanonicalMemoriesThatReadAlikeAreEqual := by
  intro m n hm hn hread
  have hrising : ∀ {l : Memory}, Memory.wf l = true → risingFrom 0 l = true := fun h =>
    (Bool.and_eq_true_iff.mp h).1
  refine eq_of_lookupKey_eq (hrising hm) (hrising hn) fun a => Option.ext fun v => ?_
  rw [lookupKey_eq_some_iff hm, lookupKey_eq_some_iff hn]
  refine and_congr_right fun ha => ?_
  have haddr := hread (BitVec.ofNat 8 a)
  rw [BitVec.toNat_ofNat, Nat.mod_eq_of_lt ha] at haddr
  rw [haddr]

/-- Settles O6 (spec/10_state.md R13). -/
theorem registerWriteStoresAndRewritesCarry : Obligations.RegisterWriteStoresAndRewritesCarry := by
  intro i v s
  refine ⟨get_set_same s.regs i (clampValue v), rfl, ?_, fun _ => rfl, rfl, rfl, rfl, ⟨rfl, rfl, rfl, rfl, rfl⟩,
    by simp⟩
  exact fun r hr => get_set_other s.regs (clampValue v) hr

/-- Settles O7 (spec/20_memory.md R42). -/
theorem memoryWriteStoresOneCell : Obligations.MemoryWriteStoresOneCell := fun a v s =>
  ⟨readMemory_writeMemory_same a v s, fun _ hb => readMemory_writeMemory_other v s hb, fun _ => rfl, ⟨rfl, rfl⟩,
    rfl, rfl, ⟨rfl, rfl, rfl, rfl, rfl⟩, by simp⟩

/-- Settles O8 (spec/10_state.md R15, R18, R20). -/
theorem pointerAndFlagWritesStoreAndNotify : Obligations.PointerAndFlagWritesStoreAndNotify :=
  fun _ _ _ => ⟨rfl, rfl, rfl, rfl⟩

/-- Settles O11 (spec/40_step_cycle.md R86, R87). -/
theorem operandsResolveByMode : Obligations.OperandsResolveByMode := fun _ _ _ => ⟨rfl, rfl, rfl, rfl, rfl, rfl⟩

/-! ## Guarded writes from outside (spec/10_state.md R27) -/

theorem byteOfInt_eq_none_iff (n : Int) : byteOfInt n = none ↔ n < 0 ∨ 255 < n := by
  unfold byteOfInt
  split
  · simp; omega
  · simp; omega

theorem byteOfInt_toNat (b : Byte) : byteOfInt (b.toNat : Int) = some b := by
  have hb : 0 ≤ (b.toNat : Int) ∧ (b.toNat : Int) < 256 := ⟨raw_nonneg b, raw_lt b⟩
  rw [byteOfInt, if_pos hb]
  exact congrArg some (clampValue_raw b)

theorem regOfInt_eq_none_iff (n : Int) : regOfInt n = none ↔ n < 0 ∨ 3 < n := by
  unfold regOfInt
  split_ifs <;> simp <;> omega

theorem bitOfInt_eq_none_iff (n : Int) : bitOfInt n = none ↔ n < 0 ∨ 1 < n := by
  unfold bitOfInt
  split_ifs <;> simp <;> omega

section
variable {w : GuardedWrite} {s : State}

theorem hostWrite_of_interrupted (hi : s.interrupted = true) : hostWrite w s = .refused .writeWhileInterrupted := by
  rw [hostWrite, if_pos hi]

theorem hostWrite_of_refused (hi : s.interrupted = false) (h : guardedWrite w s = none) :
    hostWrite w s = .refused .argumentOutOfRange := by
  simp [hostWrite, hi, h]

theorem hostWrite_of_guardedWrite {t : State} (hi : s.interrupted = false) (h : guardedWrite w s = some t) :
    hostWrite w s = .next t := by
  simp [hostWrite, hi, h]

theorem handlerWrite_of_refused (h : guardedWrite w s = none) : handlerWrite s w = s := by
  rw [handlerWrite, h, Option.getD_none]

end

/-- Settles O9 (spec/10_state.md R27, spec/60_exceptions.md R167, spec/70_reset_and_hazards.md R200): the three
input ranges, and the two callers from outside. -/
theorem outOfRangeArgumentsAreRefused : Obligations.OutOfRangeArgumentsAreRefused :=
  ⟨fun a _ _ => Option.map_eq_none_iff.trans (byteOfInt_eq_none_iff a),
   fun i _ _ => Option.map_eq_none_iff.trans (regOfInt_eq_none_iff i),
   fun b _ => Option.map_eq_none_iff.trans (bitOfInt_eq_none_iff b),
   fun b _ => Option.map_eq_none_iff.trans (bitOfInt_eq_none_iff b),
   fun a v s => by rw [guardedWrite, byteOfInt_toNat, Option.map_some],
   fun _ _ => ⟨rfl, rfl, rfl, rfl, rfl, rfl⟩,
   fun _ => ⟨rfl, rfl, rfl, rfl⟩,
   fun _ _ => handlerWrite_of_refused,
   fun _ _ _ => handlerWrite_of_guardedWrite,
   fun _ _ => hostWrite_of_interrupted,
   fun _ _ => hostWrite_of_refused,
   fun _ _ _ => hostWrite_of_guardedWrite⟩

/-! ## Reset and the host (spec/70_reset_and_hazards.md R190 to R200) -/

theorem readMemory_reset (a : Byte) : readMemory a State.reset = 0x00#8 := rfl

theorem readRegister_reset (r : Reg) : readRegister r State.reset = 0x00#8 := by cases r <;> rfl

/-- Settles O57 (spec/10_state.md R29). -/
theorem constructionStateIsTheSpecs : Obligations.ConstructionStateIsTheSpecs :=
  ⟨readMemory_reset, readRegister_reset, rfl, rfl, rfl, rfl, rfl, rfl, rfl, rfl, rfl⟩

theorem hostReset_of_interrupted {s : State} (hi : s.interrupted = true) :
    hostReset s = .refused .resetWhileInterrupted := by
  rw [hostReset, if_pos hi]

theorem hostReset_of_free {s : State} (hi : s.interrupted = false) :
    hostReset s = .next { State.reset with intTable := s.intTable, draws := s.draws, events := s.events } := by
  rw [hostReset, hi]
  rfl

/-- Settles O58 (spec/70_reset_and_hazards.md R190 to R194). -/
theorem hostResetReinitializes : Obligations.HostResetReinitializes := fun _ =>
  ⟨hostReset_of_interrupted, fun hi => ⟨_, hostReset_of_free hi, hostReset_of_free rfl, readMemory_reset,
    readRegister_reset, rfl, rfl, rfl, rfl, rfl, rfl, rfl, rfl, rfl⟩⟩

theorem reset_inv : State.reset.inv := ⟨reset_mem_wf, rfl, rfl, nofun⟩

/-- A handler's or the host's guarded write keeps the invariant. -/
theorem handlerWrite_inv {s : State} (h : s.inv) (w : GuardedWrite) : (handlerWrite s w).inv := by
  obtain ⟨hmem, htable, hpending, hhalted⟩ := h
  obtain ⟨hh, hi, ht, hp, -⟩ := handlerWrite_status s w
  exact ⟨handlerWrite_mem_wf hmem w, ht ▸ htable, by rw [hi, hp, hpending], by rwa [hh, hi]⟩

theorem hostReset_inv {s t : State} (h : s.inv) (heq : hostReset s = .next t) : t.inv := by
  obtain ⟨-, htable, -⟩ := h
  obtain ⟨-, rfl⟩ := hostReset_next heq
  exact ⟨reset_mem_wf, htable, rfl, nofun⟩

theorem hostRegister_inv {phase : Phase} {id : Int} {k : Handler} {s t : State} (h : s.inv)
    (heq : hostRegister phase id k s = .next t) : t.inv := by
  obtain ⟨hmem, htable, hpending, hhalted⟩ := h
  obtain ⟨-, b, -, rfl⟩ := hostRegister_next heq
  exact ⟨hmem, insertKey_tableWf b k htable, hpending, hhalted⟩

theorem hostWrite_inv {w : GuardedWrite} {s t : State} (h : s.inv) (heq : hostWrite w s = .next t) : t.inv := by
  obtain ⟨-, hwrite⟩ := hostWrite_next heq
  rw [← handlerWrite_of_guardedWrite hwrite]
  exact handlerWrite_inv h w

theorem hostLoad_inv {image : List (Byte × Byte)} {s t : State} (h : s.inv) (heq : hostLoad image s = .next t) :
    t.inv := by
  obtain ⟨-, rfl⟩ := hostLoad_next heq
  refine loadImage_induction (R := fun s t => s.inv → t.inv) (fun _ => id) (fun _ _ _ hst htu => htu ∘ hst) ?_
    image s h
  rintro s a v ⟨hmem, hrest⟩
  exact ⟨writeCell_wf a (clampValue (raw v)) hmem, hrest⟩

/-- Settles O54: reset, and each operation of the host. -/
theorem resetMeetsTheInvariant : Obligations.ResetMeetsTheInvariant :=
  ⟨reset_inv, rfl, fun _ _ => hostReset_inv, fun _ _ _ _ _ => hostRegister_inv, fun _ _ _ => hostWrite_inv,
    fun _ _ _ => hostLoad_inv⟩

theorem hostRegister_setup (id : Byte) (h : Handler) (s : State) :
    hostRegister .setup id.toNat h s = .next { s with intTable := insertKey id.toNat h s.intTable } := by
  simp only [hostRegister, byteOfInt_toNat]

/-- Settles O59 (spec/60_exceptions.md R164): the laws of the sorted table. -/
theorem lastRegistrationWins : Obligations.LastRegistrationWins := by
  intro id h s
  refine ⟨rfl, _, hostRegister_setup id h s, lookupKey_insertKey_same id.toNat h s.intTable, fun j hj => ?_, rfl⟩
  exact lookupKey_insertKey_other h s.intTable fun e => hj (BitVec.eq_of_toNat_eq e)

/-- Each cell after a load, by induction on the image: a byte given later overwrites one given before. -/
theorem readMemory_loadImage (image : List (Byte × Byte)) (s : State) (a : Byte) :
    readMemory a (loadImage image s) =
      (((image.filter fun c => c.1 == a).getLast?).map fun c => c.2).getD (readMemory a s) := by
  induction image generalizing s with
  | nil => rfl
  | cons c image ih =>
    rw [loadImage_cons, ih]
    by_cases hc : c.1 = a
    · rw [List.filter_cons_of_pos (by simpa using hc), ← hc, readMemory_writeMemory_same, clampValue_raw,
        List.getLast?_cons]
      cases (image.filter fun d => d.1 == c.1).getLast? <;> rfl
    · rw [List.filter_cons_of_neg (by simpa using hc), readMemory_writeMemory_other _ _ (Ne.symm hc)]

theorem loadImage_events (image : List (Byte × Byte)) (s : State) :
    (loadImage image s).events =
      s.events ++ image.flatMap fun c => [.memoryChanged c.1 c.2, .memoryChangedAt c.1 c.2] := by
  induction image generalizing s with
  | nil => exact (List.append_nil _).symm
  | cons c image ih => simp [ih]

/-- A load leaves everything but memory and the stream as it was. -/
theorem loadImage_frame (image : List (Byte × Byte)) (s : State) :
    (loadImage image s).regs = s.regs ∧ SameFlags s (loadImage image s) ∧ (loadImage image s).ip = s.ip ∧
      (loadImage image s).sp = s.sp ∧ SameStatus s (loadImage image s) := by
  induction image generalizing s with
  | nil => exact ⟨rfl, ⟨rfl, rfl⟩, rfl, rfl, rfl, rfl, rfl, rfl, rfl⟩
  | cons c image ih => exact ih (writeMemory c.1 (raw c.2) s)

/-- Settles O60 (spec/70_reset_and_hazards.md R195, R196, R200). -/
theorem loaderWritesMemoryOnly : Obligations.LoaderWritesMemoryOnly := by
  intro image s
  refine ⟨fun hi => by rw [hostLoad, if_pos hi], fun hi => ?_⟩
  obtain ⟨hregs, hflags, hip, hsp, hstatus⟩ := loadImage_frame image s
  have hload : hostLoad image s = .next (loadImage image s) := by rw [hostLoad, hi]; rfl
  exact ⟨_, hload, readMemory_loadImage image s, sameRegisters_of_regs hregs, hflags, hip, hsp, hstatus,
    loadImage_events image s⟩

end Sys2Proof.Machine

namespace Sys2Proof.Machine

/-! ## HALT, comparison and control transfer (spec/41_system.md, spec/42_compare_control.md) -/

/-- Settles O21 (spec/41_system.md R100). -/
theorem haltStopsTheEngine : Obligations.HaltStopsTheEngine := by
  intro s
  refine ⟨fun b0 b1 h => decode_halt b1 (opField_of_mask h rfl), _, inFrame_eq setHalted s, ?_⟩
  exact ⟨rfl, clampValue_raw_add_two s.ip, sameRegisters_of_regs rfl, sameMemory_of_mem rfl, ⟨rfl, rfl⟩, rfl, rfl,
    rfl, rfl, rfl, by simp [EmitsInFrame, setHalted]⟩

/-- Settles O25 (spec/42_compare_control.md R110): the operands are read in the state before. -/
theorem compareSetsZeroToEquality : Obligations.CompareSetsZeroToEquality := by
  intro p src s
  refine ⟨decode_regModeWord .cmp p src, _, inFrame_eq (compareBody p src) s, ?_⟩
  rw [compareBody, readRegister_advanceIp, operandValue_advanceIp]
  refine ⟨?_, rfl, sameRegisters_of_regs rfl, sameMemory_of_mem rfl, clampValue_raw_add_two s.ip, rfl,
    ⟨rfl, rfl, rfl, rfl, rfl⟩, by simp [EmitsInFrame]⟩
  simp [compareZero]

/-- A body that writes IP, after the advance, to a byte: the effect of every taken jump (R111, R114). -/
theorem jump_inFrame (a : Byte) (s : State) :
    ∃ t, inFrame (writeIp (raw a)) s = .next t ∧ SameRegisters s t ∧ SameMemory s t ∧ SameFlags s t ∧ t.sp = s.sp ∧
      SameStatus s t ∧ t.ip = a ∧ EmitsInFrame [.ipChanged a] s t :=
  ⟨_, inFrame_eq _ s, sameRegisters_of_regs rfl, sameMemory_of_mem rfl, ⟨rfl, rfl⟩, rfl, ⟨rfl, rfl, rfl, rfl, rfl⟩,
    clampValue_raw a, by simp [EmitsInFrame]⟩

/-- A body that writes nothing: the effect of every jump that is not taken (R114). -/
theorem noJump_inFrame (s : State) :
    ∃ t, inFrame (fun u => u) s = .next t ∧ SameRegisters s t ∧ SameMemory s t ∧ SameFlags s t ∧ t.sp = s.sp ∧
      SameStatus s t ∧ t.ip = s.ip + 2#8 ∧ EmitsInFrame [] s t :=
  ⟨_, inFrame_eq _ s, sameRegisters_of_regs rfl, sameMemory_of_mem rfl, ⟨rfl, rfl⟩, rfl, ⟨rfl, rfl, rfl, rfl, rfl⟩,
    clampValue_raw_add_two s.ip, by simp [EmitsInFrame]⟩

/-- Settles O26 (spec/42_compare_control.md R111). -/
theorem jumpSetsIpToTheOperandByte : Obligations.JumpSetsIpToTheOperandByte := by
  intro a s
  obtain ⟨t, hexec, hregs, hmem, hflags, hsp, hstatus, hip, hevents⟩ := jump_inFrame a s
  exact ⟨fun b0 h => decode_jmp a (opField_of_mask h rfl), t, hexec, hip, hregs, hmem, hflags, hsp, hstatus, hevents⟩

/-- What the shape shared by the four conditional jumps does, by whether the condition holds (R114). -/
theorem jumpIf_inFrame {cond : State → Bool} {taken : Prop} {s : State} (a : Byte)
    (hcond : cond (advanceIp s) = true ↔ taken) :
    ∃ t, inFrame (jumpIf cond a) s = .next t ∧ SameRegisters s t ∧ SameMemory s t ∧ SameFlags s t ∧ t.sp = s.sp ∧
      SameStatus s t ∧ (taken → t.ip = a ∧ EmitsInFrame [.ipChanged a] s t) ∧
      (¬ taken → t.ip = s.ip + 2#8 ∧ EmitsInFrame [] s t) := by
  rw [inFrame_eq, jumpIf]
  split
  · next h =>
    obtain ⟨t, hexec, hregs, hmem, hflags, hsp, hstatus, hjump⟩ := jump_inFrame a s
    exact ⟨t, hexec, hregs, hmem, hflags, hsp, hstatus, fun _ => hjump, fun hn => absurd (hcond.mp h) hn⟩
  · next h =>
    obtain ⟨t, hexec, hregs, hmem, hflags, hsp, hstatus, hstay⟩ := noJump_inFrame s
    exact ⟨t, hexec, hregs, hmem, hflags, hsp, hstatus, fun ht => absurd (hcond.mpr ht) h, fun _ => hstay⟩

/-- Settles O29 (spec/42_compare_control.md R114 to R117): the four jumps are one shape with four conditions. -/
theorem conditionalJumpsTestOneFlag : Obligations.ConditionalJumpsTestOneFlag := by
  rintro a s i code taken (⟨rfl, rfl, rfl⟩ | ⟨rfl, rfl, rfl⟩ | ⟨rfl, rfl, rfl⟩ | ⟨rfl, rfl, rfl⟩)
  · exact ⟨fun b0 h => decode_jz a (opField_of_mask h rfl) (modeField_of_mask h rfl),
      jumpIf_inFrame (cond := condZ) a Iff.rfl⟩
  · exact ⟨fun b0 h => decode_jnz a (opField_of_mask h rfl) (modeField_of_mask h rfl),
      jumpIf_inFrame (cond := condNZ) a (by simp [condNZ])⟩
  · exact ⟨fun b0 h => decode_jc a (opField_of_mask h rfl) (modeField_of_mask h rfl),
      jumpIf_inFrame (cond := condC) a Iff.rfl⟩
  · exact ⟨fun b0 h => decode_jnc a (opField_of_mask h rfl) (modeField_of_mask h rfl),
      jumpIf_inFrame (cond := condNC) a (by simp [condNC])⟩

/-- A push reads back at the old SP, and leaves every other cell alone (46_stack R152). -/
theorem readMemory_pushByte_same (b : Byte) (s : State) : readMemory s.sp (pushByte b s) = b := by
  simp [readMemory]

theorem readMemory_pushByte_other (b : Byte) (s : State) {a : Byte} (h : a ≠ s.sp) :
    readMemory a (pushByte b s) = readMemory a s :=
  readMemory_writeMemory_other (raw b) s h

/-- Settles O27 (spec/42_compare_control.md R112): a push of the advanced IP, then the jump to the value read
before it. -/
theorem callPushesTheReturnAddress : Obligations.CallPushesTheReturnAddress := by
  intro src s
  refine ⟨fun b0 h => decode_callWord src h, _, inFrame_eq (callBody src) s, ?_⟩
  rw [callBody, operandValue_advanceIp, advanceIp_ip, clampValue_raw_add_two]
  refine ⟨readMemory_pushByte_same _ (advanceIp s), fun a ha => readMemory_pushByte_other _ (advanceIp s) ha, ?_, ?_,
    sameRegisters_of_regs rfl, ⟨rfl, rfl⟩, ⟨rfl, rfl, rfl, rfl, rfl⟩, ?_⟩
  · simp
  · simp
  · simp [EmitsInFrame]

theorem stackByte_raiseSp (s : State) : stackByte (raiseSp s) = readMemory (s.sp + 1#8) s := by
  rw [stackByte, raiseSp_sp, clampValue_raw_add_one]
  exact readMemory_congr rfl _

/-- Settles O28 (spec/42_compare_control.md R113). -/
theorem returnPopsIp : Obligations.ReturnPopsIp := by
  intro s
  refine ⟨fun b0 b1 h => decode_ret b1 (opField_of_mask h rfl), _, inFrame_eq returnBody s, ?_⟩
  rw [returnBody, stackByte_raiseSp, readMemory_advanceIp]
  refine ⟨?_, ?_, sameMemory_of_mem rfl, sameRegisters_of_regs rfl, ⟨rfl, rfl⟩, ⟨rfl, rfl, rfl, rfl, rfl⟩, ?_⟩
  · simp
  · simp
  · simp [EmitsInFrame]

/-! ## Loads and stores (spec/43_load_store.md) -/

/-- A register write of a value known before the frame, with its register, C and frame. -/
theorem storeRegister_inFrame {body : State → State} {p : Reg} {v : Byte} {c : Bool} {s : State}
    (h : body (advanceIp s) = storeRegister p v c (advanceIp s)) :
    ∃ t, inFrame body s = .next t ∧ readRegister p t = v ∧ t.carry = c ∧ RegisterFrame p s t := by
  refine ⟨_, inFrame_eq body s, ?_⟩
  rw [h]
  exact ⟨readRegister_storeRegister_inFrame p v c s, rfl, registerFrame_storeRegister_inFrame p v c s⟩

/-- Settles O30 (spec/43_load_store.md R120). -/
theorem loadCopiesTheValueAndClearsCarry : Obligations.LoadCopiesTheValueAndClearsCarry := by
  intro p src s
  refine ⟨decode_regModeWord .load p src, storeRegister_inFrame (body := loadBody p src) ?_⟩
  rw [loadBody, operandValue_advanceIp, writeRegister_raw]

/-- Settles O31 (spec/43_load_store.md R121). -/
theorem storeWritesOneCell : Obligations.StoreWritesOneCell := by
  intro p dst s
  refine ⟨decode_storeWord p dst, _, inFrame_eq (storeBody p dst) s, ?_⟩
  rw [storeBody, operandAddress_advanceIp, readRegister_advanceIp]
  refine ⟨?_, fun a ha => readMemory_writeMemory_other _ (advanceIp s) ha, sameRegisters_of_regs rfl, ⟨rfl, rfl⟩,
    clampValue_raw_add_two s.ip, rfl, ⟨rfl, rfl, rfl, rfl, rfl⟩, by simp [EmitsInFrame]⟩
  exact (readMemory_writeMemory_same _ _ (advanceIp s)).trans (clampValue_raw _)

/-- What is known of some answer of an instruction holds of the answer it gives. -/
theorem of_exec_next {i : Instr} {s t : State} {P : State → Prop} (h : exec i s = .next t)
    (hex : ∃ u, exec i s = .next u ∧ P u) : P t := by
  obtain ⟨u, hu, hP⟩ := hex
  obtain rfl : t = u := by
    have heq := h.symm.trans hu
    injection heq
  exact hP

/-- Settles O33 (spec/20_memory.md R53): STORE's cell read where the next step fetches. -/
theorem storeIsSeenByTheNextFetch : Obligations.StoreIsSeenByTheNextFetch := by
  intro p dst s t h
  obtain ⟨hcell, -, -, -, hip, -⟩ := of_exec_next h (storeWritesOneCell p dst s).2
  refine ⟨fun ha => ?_, fun ha => ?_⟩
  · rw [fetchBytes, hip, ← ha, hcell]
  · have hnext : s.ip + 2#8 + 1#8 = s.ip + 3#8 := BitVec.add_assoc s.ip 2#8 1#8
    rw [fetchBytes, hip, hnext, ← ha, hcell]

/-! ## Logic, NOT and the right shift (spec/44_alu.md R132 to R134, spec/45_unary.md R142, R144) -/

/-- AND, OR and XOR of two bytes have the byte of the result as their raw result, which clamps to itself. -/
theorem bitwiseBody_inFrame (op : Byte → Byte → Byte) (p : Reg) (src : Operand) (s : State) :
    ∃ t, inFrame (aluBody (fun x v => raw (op x v)) p src) s = .next t ∧
      readRegister p t = op (readRegister p s) (operandValue src s) ∧ t.carry = false ∧ RegisterFrame p s t := by
  obtain ⟨t, hexec, hreg, hcarry, hframe⟩ := aluBody_inFrame (fun x v => raw (op x v)) p src s
  exact ⟨t, hexec, hreg.trans (clampValue_raw _), hcarry.trans (clampCarry_raw _), hframe⟩

/-- Settles O36 (spec/44_alu.md R132 to R134): one shape with three operations on bytes. -/
theorem bitwiseOperationsWorkBitByBit : Obligations.BitwiseOperationsWorkBitByBit := by
  rintro p src s i op f (⟨rfl, rfl, rfl⟩ | ⟨rfl, rfl, rfl⟩ | ⟨rfl, rfl, rfl⟩)
  · obtain ⟨t, hexec, hreg, hrest⟩ := bitwiseBody_inFrame (· &&& ·) p src s
    exact ⟨decode_regModeWord .and p src, t, hexec, fun k _ => by rw [hreg, BitVec.getLsbD_and], hrest⟩
  · obtain ⟨t, hexec, hreg, hrest⟩ := bitwiseBody_inFrame (· ||| ·) p src s
    exact ⟨decode_regModeWord .or p src, t, hexec, fun k _ => by rw [hreg, BitVec.getLsbD_or], hrest⟩
  · obtain ⟨t, hexec, hreg, hrest⟩ := bitwiseBody_inFrame (· ^^^ ·) p src s
    exact ⟨decode_regModeWord .xor p src, t, hexec, fun k _ => by rw [hreg, BitVec.getLsbD_xor], hrest⟩

/-- Settles O38 (spec/45_unary.md R142): the complement, with the open carry. -/
theorem notInvertsEveryBit : Obligations.NotInvertsEveryBit := by
  intro r s
  obtain ⟨t, hexec, hreg, hrest⟩ := storeRegister_inFrame (body := complementBody r) (s := s) rfl
  rw [readRegister_advanceIp] at hreg
  refine ⟨decode_unaryWord .not r rfl rfl, t, hexec, ?_, fun k hk => ?_, hrest⟩
  · rw [hreg, BitVec.toNat_not]
  · simp [hreg, hk]

theorem clampValue_raw_half_toNat (b : Byte) : (clampValue (raw b / 2)).toNat = b.toNat / 2 := by
  have hvalue := clampValue_toNat (raw b / 2)
  rw [raw] at hvalue ⊢
  omega

theorem clampCarry_raw_half (b : Byte) : clampCarry (raw b / 2) = false := by
  have hbound := raw_lt b
  have hnonneg := raw_nonneg b
  rw [clampCarry_eq_decide, decide_eq_false_iff_not]
  omega

/-- Settles O40 (spec/45_unary.md R144). -/
theorem shiftRightHalvesUnsigned : Obligations.ShiftRightHalvesUnsigned := by
  intro r s
  obtain ⟨t, hexec, hreg, hcarry, hframe⟩ := unaryBody_inFrame (fun x => raw x / 2) r s
  refine ⟨decode_unaryWord .asr r rfl rfl, t, hexec, ?_, hcarry.trans (clampCarry_raw_half _), hframe⟩
  rw [hreg, clampValue_raw_half_toNat]

/-- Settles O43 (spec/44_alu.md R130, spec/45_unary.md R143): the two bodies form the same raw result. -/
theorem addToSelfIsShiftLeft : Obligations.AddToSelfIsShiftLeft := by
  intro r s t u hadd hasl
  have hsame : aluBody (fun x v => raw x + raw v) r (.reg r) = unaryBody (fun x => 2 * raw x) r := by
    funext v
    rw [aluBody, unaryBody, operandValue, two_mul]
  rw [inFrame_next hadd, inFrame_next hasl, hsame]

/-! ## The stack (spec/46_stack.md) -/

/-- Settles O44 (spec/46_stack.md R150). -/
theorem pushStoresThenLowersSp : Obligations.PushStoresThenLowersSp := by
  intro p s
  refine ⟨fun b0 b1 h => decode_pushWord p b1 h, _, inFrame_eq (pushBody p) s, ?_⟩
  rw [pushBody, readRegister_advanceIp]
  refine ⟨readMemory_pushByte_same _ (advanceIp s), fun a ha => readMemory_pushByte_other _ (advanceIp s) ha, ?_,
    sameRegisters_of_regs rfl, ⟨rfl, rfl⟩, ?_, ⟨rfl, rfl, rfl, rfl, rfl⟩, ?_⟩
  · simp
  · simp
  · simp [EmitsInFrame]

/-- Settles O45 (spec/46_stack.md R151). -/
theorem popRaisesSpThenLoads : Obligations.PopRaisesSpThenLoads := by
  intro p s
  refine ⟨fun b0 b1 h => decode_popWord p b1 h, _, inFrame_eq (popBody p) s, ?_⟩
  rw [popBody, stackByte_raiseSp, readMemory_advanceIp, writeRegister_raw]
  refine ⟨?_, get_set_same _ p _, rfl, rfl, fun r hr => get_set_other _ _ hr, sameMemory_of_mem rfl, ?_,
    rfl, rfl, rfl, rfl, rfl⟩
  · simp
  · simp

/-- Settles O46 (spec/46_stack.md R151, R152): POP reads the cell that PUSH wrote. -/
theorem pushThenPopRestores : Obligations.PushThenPopRestores := by
  intro p s t u hpush hpop
  obtain ⟨hcell, -, hsp, hregs, ⟨hzero, -⟩, -⟩ := of_exec_next hpush (pushStoresThenLowersSp p s).2
  obtain ⟨hsp', hreg, hcarry, hzero', hothers, -⟩ := of_exec_next hpop (popRaisesSpThenLoads p t).2
  have hback : t.sp + 1#8 = s.sp := by rw [hsp, BitVec.sub_add_cancel]
  refine ⟨fun r => ?_, hsp'.trans hback, hzero'.trans hzero, hcarry⟩
  by_cases hr : r = p
  · rw [hr, hreg, hback, hcell]
  · rw [hothers r hr, hregs r]

/-- Settles O47 (spec/42_compare_control.md R112, R113): RET reads the cell that CALL wrote. -/
theorem callThenReturnComesBack : Obligations.CallThenReturnComesBack := by
  intro src s t u hcall hret
  obtain ⟨hcell, hothers, hsp, -, hregs, ⟨hzero, hcarry⟩, -⟩ :=
    of_exec_next hcall (callPushesTheReturnAddress src s).2
  obtain ⟨hsp', hip, hmem, hregs', ⟨hzero', hcarry'⟩, -⟩ := of_exec_next hret (returnPopsIp t).2
  have hback : t.sp + 1#8 = s.sp := by rw [hsp, BitVec.sub_add_cancel]
  refine ⟨?_, hsp'.trans hback, fun r => (hregs' r).trans (hregs r), ⟨hzero'.trans hzero, hcarry'.trans hcarry⟩,
    fun a ha => (hmem a).trans (hothers a ha)⟩
  rw [hip, hback, hcell]

end Sys2Proof.Machine
